-- ==== Sys2Proof/Word.lean ====
section
/-!
DEFINITION. The widths of the values the block holds (00_scope.md R6, R7; 10_state.md R20).
-/

namespace Sys2Proof

/-- One byte of BUF, of a varint or of a frame. -/
abbrev Byte := BitVec 8

/-- A CRC or an outer-frame field: CRC, HCRC, HLEN (R28, R35). -/
abbrev Half := BitVec 16

/-- A command word, or a BUF address or length: `AW = 32` (R7, R70). -/
abbrev Word := BitVec 32

/-- A varint value: `VW = 64` (R6). -/
abbrev Value := BitVec 64

/-- The opaque 16-byte record identifier (R33, R34). -/
abbrev Uuid := BitVec 128

/-- A register value as the host presents or receives it: the lane as wide as the widest register (R57). -/
abbrev Lane := BitVec 128

end Sys2Proof
end

