-- ==== Sys2Proof/Machine/Bits.lean ====
section
/-!
DEFINITION. The bit-field and byte-order helpers: reflection (41_crc16.md R120), big-endian pairs (20_memory.md R51),
the byte lanes of UUID (10_state.md R34), and the named format constants (00_scope.md R12).
-/

namespace Sys2Proof.Machine

/-- `OUTER_MARKER`, outer frame byte 0 (R12). -/
def outerMarker : Byte := 0x40

/-- `MARKER_A`, header byte 0 (R12). -/
def markerA : Byte := 0x08

/-- `MARKER_B`, header byte 2 (R12). -/
def markerB : Byte := 0x12

/-- `MARKER_C`, header byte 3 (R12). -/
def markerC : Byte := 0x10

/-- `SIZE_TAG`, before the payload_size varint (R12). -/
def sizeTag : Byte := 0x28

/-- `CRC_TAG`, before the payload_crc varint (R12). -/
def crcTag : Byte := 0x30

/-- `NO_PAYLOAD_TYPE`, the record_type with no tail fields (R12). -/
def noPayloadType : Byte := 2

/-- `CRC_POLY` (R12). -/
def crcPoly : Half := 0x8005

/-- `CRC_INIT_VALUE` (R12). -/
def crcInitValue : Half := 0x0000

/-- `CRC_XOROUT` (R12). -/
def crcXorOut : Half := 0x0000

/-- The loop of R120 after `k` of its iterations: bit `i` of `v`, for `i < k`, is placed at bit `w-1-i`. -/
def reflectLoop {n : Nat} (v : BitVec n) (w : Nat) : Nat → BitVec n
  | 0 => 0
  | i + 1 =>
    if v.getLsbD i then reflectLoop v w i ||| (1#n <<< (w - 1 - i)) else reflectLoop v w i

/-- `reflect(v, w)` reverses the low `w` bits of `v`; the bits at and above `w` are 0 (R120). -/
def reflect {n : Nat} (v : BitVec n) (w : Nat) : BitVec n :=
  reflectLoop v w w

/-- `be16(hi, lo)`, the big-endian pair (R10). -/
def be16 (hi lo : Byte) : Half := hi ++ lo

/-- The byte of a u16 at the lower address: bits 15:8 (R51). -/
def hiByte (v : Half) : Byte := v.extractLsb' 8 8

/-- The byte of a u16 at the higher address: bits 7:0 (R51). -/
def loByte (v : Half) : Byte := v.extractLsb' 0 8

/-- Byte `i` of the uuid: `UUID[8*i+7 : 8*i]` (R34). -/
def uuidByte (u : Uuid) (i : Nat) : Byte := u.extractLsb' (8 * i) 8

/-- The 16 bytes of the uuid, in header order (R34, R81). -/
def uuidBytes (u : Uuid) : List Byte := (List.range 16).map (uuidByte u)

/-- The UUID register built from bytes in header order: byte `i` goes to bits `8i+7:8i` (R34). -/
def uuidOfBytes : List Byte → Uuid
  | [] => 0
  | b :: bs => (uuidOfBytes bs <<< 8) ||| b.setWidth 128

end Sys2Proof.Machine
end

