-- ==== Sys2Proof/Config.lean ====
section
/-!
DEFINITION. What this hardware fixes (the parameters of 00_scope.md R5 to R8) and the values the spec leaves open.
-/

namespace Sys2Proof

/-- `BUF_BYTES`, the size of the byte buffer: "This hardware takes `BUF_BYTES = 65540`" (R5). -/
def Config.bufBytes : Nat := 65540

/-- The byte BUF holds at an address that nothing has written: a free value for each power-on, each time the address
was in the write range of an abandoned command, and each address (R231, R232). It has no body: no proof can see it. -/
opaque Config.bufDraw (powerOn abandoned address : Nat) : Byte

/-- The free values of the BUSY hazard, one for each number (R240). It has no body: no proof can see it. -/
opaque Config.freeValue (draw : Nat) : Lane

end Sys2Proof
end

