-- ==== Sys2Proof/Machine/State.lean ====
section
/-!
DEFINITION. The state of the block and of the outside world's turns: every register of 10_state.md R20, BUF (R36), the
ghost state of R38, and the model's own plain data (log entries 1, 2, 5, 6, 7).
-/

namespace Sys2Proof.Machine

/-- The 18 registers of R20, in their order. -/
inductive Reg where
  | cmd | status | errcode | erraddr | crc | crcResult | val | addr | len | cnt
  | hcrc | hlen | rtype | uuid | unk1 | unk2 | psize | pcrc
  deriving DecidableEq, Repr

/-- The four actions of the host (R100). A written value is presented on a lane as wide as the widest register; the
register takes its low bits (log entry 3). -/
inductive HostAction where
  /-- `RegRead(n)`. -/
  | regRead (n : BitVec 8)
  /-- `RegWrite(n, v)`. -/
  | regWrite (n : BitVec 8) (v : Lane)
  /-- `BufRead(a)`. -/
  | bufRead (a : Word)
  /-- `BufWrite(a, b)`. -/
  | bufWrite (a : Word) (b : Byte)
  deriving DecidableEq, Repr

/-- One turn that the outside world takes, in the one total order of R63 (log entry 1). -/
inductive Input where
  /-- The host acts. -/
  | host (a : HostAction)
  /-- The engine is given its turn: it executes the pending command, if there is one (R102). -/
  | engine
  /-- The reset input is asserted, without a power-on (R230, R232). -/
  | reset
  /-- A power-on reset (R230, R231). -/
  | powerOn
  deriving DecidableEq, Repr

/-- What the host's last read returned (R100; log entry 2). -/
inductive Reply where
  /-- The value of a register, zero above the register's width. -/
  | reg (v : Lane)
  /-- A byte of BUF. -/
  | byte (b : Byte)
  deriving DecidableEq, Repr

/-- A range of BUF addresses: `len` of them from `start` on. -/
structure Span where
  start : Nat
  len : Nat
  deriving DecidableEq, Repr

/-- The spec's `FaultReason`, "exactly two constructors" (R243). Both are RECORDED in the field `fault` of a next
state, which keeps the first and goes on (R208, R243); no step answers `Outcome.fault` (log entry 17). -/
inductive Fault where
  /-- Raised by a host write while BUSY = 1 (R240). Safe: every value the hardware leaves open is free. -/
  | hostAccessWhileBusy
  /-- Raised by a command that reads a BUF byte not written since power-on (R231). Safe: the byte is free. -/
  | readUnwritten
  deriving DecidableEq, Repr

/-- Why a step has no meaning. No step of this model answers a refusal. -/
inductive Refusal where
  /-- Raised by an arm of `exec` whose command has no meaning yet; there is no such arm. Safe. -/
  | notModelled (mnemonic : String)
  deriving DecidableEq, Repr

/-- The whole state. Registers first, in the order of R20. -/
structure State where
  /-- CMD (R24): the command word most recently accepted; the pending command while BUSY = 1 (R37). -/
  cmd : Word
  /-- STATUS (R25): BUSY bit 0, DONE bit 1, ERR bit 2. -/
  status : Word
  /-- ERRCODE (R26). -/
  errcode : Byte
  /-- ERRADDR (R27). -/
  erraddr : Word
  /-- CRC (R28): the shift register before the final reflection. CRC_RESULT (R29) is a view of it. -/
  crc : Half
  /-- VAL (R30). -/
  val : Value
  /-- ADDR (R31). -/
  addr : Word
  /-- LEN (R31). -/
  len : Word
  /-- CNT (R32). -/
  cnt : Word
  /-- HCRC (R35). -/
  hcrc : Half
  /-- HLEN (R35). -/
  hlen : Half
  /-- RTYPE (R33). -/
  rtype : Byte
  /-- UUID (R33, R34). -/
  uuid : Uuid
  /-- UNK1 (R33). -/
  unk1 : Byte
  /-- UNK2 (R33). -/
  unk2 : Byte
  /-- PSIZE (R33). -/
  psize : Value
  /-- PCRC (R33). -/
  pcrc : Value
  /-- BUF (R36): the bytes written, by rising address. An address is `written` (R38) exactly when it is listed. -/
  buf : List Host.Cell
  /-- The model fault (R38, R243): the first reason, never cleared. -/
  fault : Option Fault
  /-- The model's own: the write ranges of the commands abandoned since power-on (R232; log entry 5). -/
  spoiled : List Span
  /-- The model's own: the number of power-ons, which numbers the draws of R231 (log entry 6). -/
  powerOns : Nat
  /-- The model's own: the number of free values drawn for the hazards of R240 (log entry 6). -/
  draws : Nat
  /-- The model's own: the host wrote while the pending command ran, whose effect is then unspecified
  (R240; log entry 7). -/
  disturbed : Bool
  /-- The model's own: the turns the outside world takes next, the next one first (log entry 1). -/
  inputs : List Input
  /-- The model's own: what the host's last read returned (log entry 2). -/
  reply : Option Reply
  deriving DecidableEq, Repr

/-- The state right after the first power-on reset: "every register is 0" (R230), no byte of BUF written (R231), no
fault (R38). The model's own fields start empty (log entry 6). -/
def State.reset : State where
  cmd := 0
  status := 0
  errcode := 0
  erraddr := 0
  crc := 0
  val := 0
  addr := 0
  len := 0
  cnt := 0
  hcrc := 0
  hlen := 0
  rtype := 0
  uuid := 0
  unk1 := 0
  unk2 := 0
  psize := 0
  pcrc := 0
  buf := []
  fault := none
  spoiled := []
  powerOns := 0
  draws := 0
  disturbed := false
  inputs := []
  reply := none

end Sys2Proof.Machine
end

