-- ==== Sys2Proof/Machine/Flags.lean ====
section
/-!
DEFINITION. The only flags the block has, the STATUS bits (10_state.md R25), and the error codes (60_exceptions.md R200).
-/

namespace Sys2Proof.Machine

/-- STATUS.BUSY, bit 0 (R25). -/
def State.busy (s : State) : Bool := s.status.getLsbD 0

/-- STATUS.DONE, bit 1 (R25). -/
def State.done (s : State) : Bool := s.status.getLsbD 1

/-- STATUS.ERR, bit 2 (R25). -/
def State.err (s : State) : Bool := s.status.getLsbD 2

/-- STATUS after reset: idle (R25). -/
def statusIdle : Word := 0x0

/-- STATUS from acceptance to completion: BUSY (R101). -/
def statusBusy : Word := 0x1

/-- STATUS after a command that succeeded: DONE (R104). -/
def statusDone : Word := 0x2

/-- STATUS after a command that raised an error: DONE and ERR (R104). -/
def statusError : Word := 0x6

/-- The legal STATUS values (R25). -/
def legalStatus (v : Word) : Bool :=
  v == statusIdle || v == statusBusy || v == statusDone || v == statusError

/-- The six errors a command can raise (R200). -/
inductive ErrKind where
  /-- The outer-frame marker is not 0x40. -/
  | malformedFrame
  /-- A header sentinel is wrong, or the window ends inside a fixed header field. -/
  | malformedHeader
  /-- A varint runs to the end of its window. -/
  | varintOverrun
  /-- A varint's value is 2^64 or more. -/
  | varintOverflow
  /-- The access does not fit in BUF. -/
  | bufferRange
  /-- The command word is not legal. -/
  | illegalCommand
  deriving DecidableEq, Repr

/-- `code(E)`, the ERRCODE value of an error (R200). -/
def errCode : ErrKind → Byte
  | .malformedFrame => 0x01
  | .malformedHeader => 0x02
  | .varintOverrun => 0x03
  | .varintOverflow => 0x04
  | .bufferRange => 0x05
  | .illegalCommand => 0x06

/-- ERRCODE as a completion leaves it: 0x00 on success, else the error's code. No other value is produced (R104,
R200). -/
def completionCode : Option ErrKind → Byte
  | none => 0x00
  | some k => errCode k

/-- How a command ends when that is open, taken from a free value: with success or with one of the six errors of R200,
each of which some value gives (log entries 7, 8). -/
def drawnError (v : Lane) : Option ErrKind :=
  [ErrKind.malformedFrame, .malformedHeader, .varintOverrun, .varintOverflow, .bufferRange, .illegalCommand][v.toNat % 7]?

end Sys2Proof.Machine
end

