-- ==== Sys2Proof/Machine/Ops.lean ====
section
/-!
DEFINITION. The named operations over BUF and the registers, the model faults, and the completion of a command: its
commit or its error report (40_control.md R104), which on this hardware is all that raising an error is
(60_exceptions.md R203, R204).
-/

namespace Sys2Proof.Machine

/-! ## BUF as a list of written bytes -/

/-- The canonical form: addresses strictly rising, all in BUF. An unlisted address holds no written byte, so no entry
can repeat what an unlisted address holds (log entry 4). -/
abbrev Memory.wf (m : List Host.Cell) : Prop :=
  m.Pairwise (fun c d => c.1 < d.1) ∧ ∀ c ∈ m, c.1 < Config.bufBytes

/-- The byte written at an address, if one has been. -/
def Memory.lookup : List Host.Cell → Nat → Option Byte
  | [], _ => none
  | (k, b) :: m, a => if k = a then some b else Memory.lookup m a

/-- One byte written: `BUF[a] <- b` and `written[a] <- true` (R100). -/
def Memory.store : List Host.Cell → Nat → Byte → List Host.Cell
  | [], a, b => [(a, b)]
  | (k, c) :: m, a, b =>
    if a < k then (a, b) :: (k, c) :: m
    else if a = k then (a, b) :: m
    else (k, c) :: Memory.store m a b

/-- `MemWrite(a, n, bs)`: the bytes at rising addresses from `a` on (R10). -/
def Memory.storeBytes : List Host.Cell → Nat → List Byte → List Host.Cell
  | m, _, [] => m
  | m, a, b :: bs => Memory.storeBytes (Memory.store m a b) (a + 1) bs

/-- Whether an address lies in a span. -/
def inSpan (sp : Span) (a : Nat) : Bool :=
  decide (sp.start ≤ a) && decide (a < sp.start + sp.len)

/-- `written <- false` for every address of a span (R232). -/
def Memory.forget (m : List Host.Cell) (sp : Span) : List Host.Cell :=
  m.filter (fun c => !inSpan sp c.1)

/-- `written[a]` (R38). -/
def State.written (s : State) (a : Nat) : Bool := (Memory.lookup s.buf a).isSome

/-- What BUF holds at an address that is not written: the stable draw of R231, or the fresh one of R232 when the
address has been in the write range of an abandoned command. -/
def State.unlistedByte (s : State) (a : Nat) : Byte :=
  Config.bufDraw s.powerOns (s.spoiled.countP (fun sp => inSpan sp a)) a

/-- `BUF[a]` (R36, R231). -/
def State.bufByte (s : State) (a : Nat) : Byte :=
  match Memory.lookup s.buf a with
  | some b => b
  | none => s.unlistedByte a

/-- `MemRead(a, n)`: the byte list `BUF[a], ..., BUF[a+n-1]` (R10). -/
def State.memRead (s : State) (a n : Nat) : List Byte := (List.range' a n).map s.bufByte

/-- `MemWrite(a, n, bs)` on the state (R10). -/
def State.memWrite (s : State) (a : Nat) (bs : List Byte) : State :=
  { s with buf := Memory.storeBytes s.buf a bs }

/-- The bytes of a span become unspecified: unwritten, and each with a fresh draw (R232; log entry 5). -/
def State.spoil (s : State) (sp : Span) : State :=
  { s with buf := Memory.forget s.buf sp, spoiled := sp :: s.spoiled }

/-- All of BUF. -/
def wholeBuf : Span := { start := 0, len := Config.bufBytes }

/-! ## Model faults -/

/-- The fault after a hazard: "the model keeps the first reason and every later step keeps it" (R243). -/
def firstFault : Option Fault → Fault → Option Fault
  | some q, _ => some q
  | none, r => some r

/-- A fault is set (R243). -/
def State.noteFault (s : State) (r : Fault) : State :=
  { s with fault := firstFault s.fault r }

/-- Whether each of the `n` bytes from `a` on has been written. -/
def State.allWritten (s : State) (a n : Nat) : Bool := (List.range' a n).all s.written

/-- The fault after a command has read the `n` bytes from `a` on: `ReadUnwritten` when one of them was not written
(R231, R243). -/
def State.faultAfterReads (s : State) (a n : Nat) : Option Fault :=
  if s.allWritten a n then s.fault else firstFault s.fault .readUnwritten

/-- The model fault, as a command's reads have left it (R243). -/
def State.setFault (s : State) (f : Option Fault) : State :=
  { s with fault := f }

/-! ## Completion (R104) -/

/-- `raise E(a)` (R10): the error, its address, and the end of the BUF bytes the command had read from ADDR on. -/
structure Raise where
  kind : ErrKind
  addr : Nat
  readTo : Nat
  deriving DecidableEq, Repr

/-- `commit` (R10): the state with every staged write applied, and the end of the BUF bytes the command read from
ADDR on (0 for a command that reads none). -/
structure Commit where
  state : State
  readTo : Nat
  deriving DecidableEq, Repr

/-- What a command's pseudocode comes to: an error or a commit (R11). -/
abbrev Body := Except Raise Commit

/-- Completion on success: ERRCODE and ERRADDR 0, STATUS = DONE (R104). -/
def State.succeed (s : State) : State :=
  { s with errcode := 0, erraddr := 0, status := statusDone }

/-- Completion on `raise E(a)`: ERRCODE the code of E, ERRADDR the address, STATUS = DONE and ERR (R104, R203). -/
def State.report (s : State) (k : ErrKind) (a : Nat) : State :=
  { s with errcode := errCode k, erraddr := BitVec.ofNat 32 a, status := statusError }

/-- The state a command completes in (R104): on success its staged writes take effect together; on an error none of
them does. Either way the bytes it read are noted for the fault `ReadUnwritten` (R243). -/
def State.completed (s : State) (b : Body) : State :=
  match b with
  | .ok c => c.state.succeed.setFault (s.faultAfterReads s.addr.toNat (c.readTo - s.addr.toNat))
  | .error e => (s.report e.kind e.addr).setFault (s.faultAfterReads s.addr.toNat (e.readTo - s.addr.toNat))

/-- The completion of a command is always a next state: "Every command terminates" (R104, R105). -/
def State.complete (s : State) (b : Body) : Host.Outcome State Fault Refusal :=
  .next (s.completed b)

/-! ## Registers by number (R20, R21, R22) -/

/-- The register of a number; 18 to 255 are reserved (R20, R21). -/
def regOfNumber (n : BitVec 8) : Option Reg :=
  [Reg.cmd, .status, .errcode, .erraddr, .crc, .crcResult, .val, .addr, .len, .cnt,
    .hcrc, .hlen, .rtype, .uuid, .unk1, .unk2, .psize, .pcrc][n.toNat]?

/-- A register's number (R20). -/
def regNumber : Reg → BitVec 8
  | .cmd => 0
  | .status => 1
  | .errcode => 2
  | .erraddr => 3
  | .crc => 4
  | .crcResult => 5
  | .val => 6
  | .addr => 7
  | .len => 8
  | .cnt => 9
  | .hcrc => 10
  | .hlen => 11
  | .rtype => 12
  | .uuid => 13
  | .unk1 => 14
  | .unk2 => 15
  | .psize => 16
  | .pcrc => 17

/-- A register's width in bits (R20). -/
def regWidth : Reg → Nat
  | .cmd => 32
  | .status => 32
  | .errcode => 8
  | .erraddr => 32
  | .crc => 16
  | .crcResult => 16
  | .val => 64
  | .addr => 32
  | .len => 32
  | .cnt => 32
  | .hcrc => 16
  | .hlen => 16
  | .rtype => 8
  | .uuid => 128
  | .unk1 => 8
  | .unk2 => 8
  | .psize => 64
  | .pcrc => 64

/-- The registers a host write is ignored by: STATUS, ERRCODE, ERRADDR, CRC_RESULT, CNT (R22). -/
def regReadOnly : Reg → Bool
  | .cmd => false
  | .status => true
  | .errcode => true
  | .erraddr => true
  | .crc => false
  | .crcResult => true
  | .val => false
  | .addr => false
  | .len => false
  | .cnt => true
  | .hcrc => false
  | .hlen => false
  | .rtype => false
  | .uuid => false
  | .unk1 => false
  | .unk2 => false
  | .psize => false
  | .pcrc => false

/-- CRC_RESULT, "always `reflect(CRC, 16)`" with the final XOR of zero (R29). -/
def State.crcResult (s : State) : Half := reflect s.crc 16 ^^^ crcXorOut

/-- The value of a register, zero above its width (R57). -/
def State.readReg (s : State) : Reg → Lane
  | .cmd => s.cmd.setWidth 128
  | .status => s.status.setWidth 128
  | .errcode => s.errcode.setWidth 128
  | .erraddr => s.erraddr.setWidth 128
  | .crc => s.crc.setWidth 128
  | .crcResult => s.crcResult.setWidth 128
  | .val => s.val.setWidth 128
  | .addr => s.addr.setWidth 128
  | .len => s.len.setWidth 128
  | .cnt => s.cnt.setWidth 128
  | .hcrc => s.hcrc.setWidth 128
  | .hlen => s.hlen.setWidth 128
  | .rtype => s.rtype.setWidth 128
  | .uuid => s.uuid
  | .unk1 => s.unk1.setWidth 128
  | .unk2 => s.unk2.setWidth 128
  | .psize => s.psize.setWidth 128
  | .pcrc => s.pcrc.setWidth 128

/-- A stored register takes the low bits of a value. CRC_RESULT is not stored (R29). -/
def State.setReg (s : State) (r : Reg) (v : Lane) : State :=
  match r with
  | .cmd => { s with cmd := v.setWidth 32 }
  | .status => { s with status := v.setWidth 32 }
  | .errcode => { s with errcode := v.setWidth 8 }
  | .erraddr => { s with erraddr := v.setWidth 32 }
  | .crc => { s with crc := v.setWidth 16 }
  | .crcResult => s
  | .val => { s with val := v.setWidth 64 }
  | .addr => { s with addr := v.setWidth 32 }
  | .len => { s with len := v.setWidth 32 }
  | .cnt => { s with cnt := v.setWidth 32 }
  | .hcrc => { s with hcrc := v.setWidth 16 }
  | .hlen => { s with hlen := v.setWidth 16 }
  | .rtype => { s with rtype := v.setWidth 8 }
  | .uuid => { s with uuid := v }
  | .unk1 => { s with unk1 := v.setWidth 8 }
  | .unk2 => { s with unk2 := v.setWidth 8 }
  | .psize => { s with psize := v.setWidth 64 }
  | .pcrc => { s with pcrc := v.setWidth 64 }

end Sys2Proof.Machine
end

