-- ==== Sys2Proof/Machine/Operands.lean ====
section
/-!
DEFINITION. The operand forms of the commands: the window, the range check of a buffer command, the input byte of
CRC_BYTE, and the record registers as one header (20_memory.md R54, R55; 30_encoding.md R74; 10_state.md R33).
-/

namespace Sys2Proof.Machine

/-- ADDR as an exact integer (R7, R53). -/
def State.base (s : State) : Nat := s.addr.toNat

/-- `ADDR + LEN`, the end of the window, computed without wrap (R53, R54). -/
def State.windowEnd (s : State) : Nat := s.addr.toNat + s.len.toNat

/-- The bytes of the window `[ADDR, ADDR+LEN)` (R54). -/
def State.window (s : State) : List Byte := s.memRead s.base s.len.toNat

/-- `InRange(a, n)`: `a + n <= BUF_BYTES`, without wrap (R54). -/
def inRange (a n : Nat) : Bool := decide (a + n ≤ Config.bufBytes)

/-- A buffer command checks its whole range of `n` bytes from ADDR on before it reads or writes any byte: BufferRange
with error address ADDR (R54, R55, R201). -/
def State.ranged (s : State) (n : Nat) (b : Body) : Body :=
  if inRange s.base n then b else .error { kind := .bufferRange, addr := s.base, readTo := 0 }

/-- The input byte of CRC_BYTE, VAL[7:0] (R30, R123). -/
def State.valByte (s : State) : Byte := s.val.extractLsb' 0 8

/-- A count of bytes as CNT holds it (R32). -/
def countOf (n : Nat) : Word := BitVec.ofNat 32 n

/-- One decoded or to-be-encoded header: the record attributes of R33. -/
structure Header where
  rtype : Byte
  uuid : Uuid
  unk1 : Byte
  unk2 : Byte
  psize : Value
  pcrc : Value
  deriving DecidableEq, Repr

/-- The record registers (R33). -/
def State.header (s : State) : Header where
  rtype := s.rtype
  uuid := s.uuid
  unk1 := s.unk1
  unk2 := s.unk2
  psize := s.psize
  pcrc := s.pcrc

/-- The record registers written together, as HDEC commits them (R175). -/
def State.setHeader (s : State) (h : Header) : State :=
  { s with rtype := h.rtype, uuid := h.uuid, unk1 := h.unk1, unk2 := h.unk2, psize := h.psize, pcrc := h.pcrc }

/-- The tagged-union view of a record's tail: "`NoPayload` when RTYPE = 2 and `WithPayload{size, crc}` otherwise"
(R33, C4). -/
inductive Payload where
  | noPayload
  | withPayload (size crc : Value)
  deriving DecidableEq, Repr

/-- Whether a record has tail fields is decided by RTYPE alone (R33). -/
def Header.payload (h : Header) : Payload :=
  if h.rtype = noPayloadType then .noPayload else .withPayload h.psize h.pcrc

end Sys2Proof.Machine
end

