-- ==== Sys2Proof/Syntax.lean ====
section
/-!
DEFINITION. The twelve commands of the opcode map (30_encoding.md R71).
-/

namespace Sys2Proof

/-- One constructor per row of the opcode map. The only immediate is REFLECT's W, 7 bits (R70, R74); every other
operand is a register fixed by the opcode. -/
inductive Instr where
  /-- NOP, OP 0x00 (R107). -/
  | nop
  /-- CRC_INIT, OP 0x01 (R122). -/
  | crcInit
  /-- CRC_BYTE, OP 0x02 (R123). -/
  | crcByte
  /-- CRC_BUF, OP 0x03 (R124). -/
  | crcBuf
  /-- CRC16, OP 0x04 (R125). -/
  | crc16
  /-- REFLECT, OP 0x05, with the width field W (R126). -/
  | reflect (w : BitVec 7)
  /-- VENC, OP 0x10 (R152). -/
  | venc
  /-- VDEC, OP 0x11 (R154). -/
  | vdec
  /-- OFDEC, OP 0x20 (R172). -/
  | ofdec
  /-- OFENC, OP 0x21 (R173). -/
  | ofenc
  /-- HDEC, OP 0x22 (R175). -/
  | hdec
  /-- HENC, OP 0x23 (R176). -/
  | henc
  deriving DecidableEq, Repr

end Sys2Proof
end

