-- ==== Sys2Proof/WellFormed.lean ====
section
/-!
DEFINITION. Which commands have a legal word: the checks on a command's operand (30_encoding.md R72, items 3 and 4).
-/

namespace Sys2Proof

/-- The width REFLECT admits: `1 <= W <= 64` (R72 item 3). -/
def legalWidth (w : BitVec 7) : Bool :=
  decide (1 ≤ w.toNat) && decide (w.toNat ≤ 64)

/-- A command is well-formed when the word that encodes it is legal. Only REFLECT has an operand to check (R72). -/
def Instr.wellFormed : Instr → Bool
  | .nop => true
  | .crcInit => true
  | .crcByte => true
  | .crcBuf => true
  | .crc16 => true
  | .reflect w => legalWidth w
  | .venc => true
  | .vdec => true
  | .ofdec => true
  | .ofenc => true
  | .hdec => true
  | .henc => true

end Sys2Proof
end

