-- ==== Sys2Proof/Machine/Checksum.lean ====
section
/-!
DEFINITION. The checksum engine: the CRC step and fold, and CRC_INIT, CRC_BYTE, CRC_BUF, CRC16, REFLECT (41_crc16.md).
-/

namespace Sys2Proof.Machine

/-- One shift of the register: the top bit is compared with the input bit, the register shifts left by one and keeps
16 bits, and is XORed with CRC_POLY when the two bits differ (R121). -/
def crcShift (c : Half) (d : Bool) : Half :=
  if c.getLsbD 15 ^^ d then (c <<< 1) ^^^ crcPoly else c <<< 1

/-- The shifts for bits `i-1` down to 0 of a reflected byte (R121). -/
def crcShifts (d : Byte) : Nat → Half → Half
  | 0, c => c
  | i + 1, c => crcShifts d i (crcShift c (d.getLsbD i))

/-- `crc_step(c, b)`: the byte is reflected, then its eight bits are fed most significant first (R121). -/
def crcStep (c : Half) (b : Byte) : Half :=
  crcShifts (reflect b 8) 8 c

/-- `fold(c, s)`: the bytes fed in order (R127). -/
def crcFold (c : Half) (bs : List Byte) : Half := bs.foldl crcStep c

/-- `crc16(s)`: the fold from 0, reflected out, with no final XOR (R127). -/
def crc16 (bs : List Byte) : Half := reflect (crcFold crcInitValue bs) 16 ^^^ crcXorOut

/-- One bit of the right-shift form (R129). -/
def crcRightShift (c : Half) : Half :=
  if c.getLsbD 0 then (c >>> 1) ^^^ reflect crcPoly 16 else c >>> 1

/-- One byte of the right-shift form: `c XOR b`, then eight right shifts (R129). -/
def crcRightStep (c : Half) (b : Byte) : Half :=
  crcRightShift (crcRightShift (crcRightShift (crcRightShift (crcRightShift (crcRightShift (crcRightShift
    (crcRightShift (c ^^^ b.setWidth 16))))))))

/-- The right-shift form of `crc16`, with no final reflection (R129). -/
def crcRight (bs : List Byte) : Half := bs.foldl crcRightStep 0

/-- The pseudocode of CRC_BUF and CRC16, which differ only in the register the fold starts from: the range check, the
fold over the window, CNT = LEN (R124, R125). -/
def crcWindowBody (s : State) (c : Half) : Body :=
  s.ranged s.len.toNat
    (.ok { state := { s with crc := crcFold c s.window, cnt := s.len }, readTo := s.windowEnd })

/-- CRC_INIT's pseudocode (R122). -/
def crcInitBody (s : State) : Body :=
  .ok { state := { s with crc := crcInitValue }, readTo := 0 }

/-- CRC_BYTE's pseudocode (R123). -/
def crcByteBody (s : State) : Body :=
  .ok { state := { s with crc := crcStep s.crc s.valByte }, readTo := 0 }

/-- CRC_INIT: CRC <- 0 (R122). -/
def execCrcInit (s : State) : Host.Outcome State Fault Refusal :=
  s.complete (crcInitBody s)

/-- CRC_BYTE: the byte VAL[7:0] is fed into CRC (R123). -/
def execCrcByte (s : State) : Host.Outcome State Fault Refusal :=
  s.complete (crcByteBody s)

/-- CRC_BUF: the window is fed into the running CRC (R124). -/
def execCrcBuf (s : State) : Host.Outcome State Fault Refusal :=
  s.complete (crcWindowBody s s.crc)

/-- CRC16: the window is fed into a CRC that starts from 0 (R125). -/
def execCrc16 (s : State) : Host.Outcome State Fault Refusal :=
  s.complete (crcWindowBody s crcInitValue)

/-- REFLECT's pseudocode: IllegalCommand with error address 0 for a width outside 1..64, else the reflection of VAL
(R126, R202). -/
def reflectBody (w : BitVec 7) (s : State) : Body :=
  if legalWidth w then .ok { state := { s with val := reflect s.val w.toNat }, readTo := 0 }
  else .error { kind := .illegalCommand, addr := 0, readTo := 0 }

/-- REFLECT: VAL <- zext_64(reflect(VAL, W)) (R126). -/
def execReflect (w : BitVec 7) (s : State) : Host.Outcome State Fault Refusal :=
  s.complete (reflectBody w s)

end Sys2Proof.Machine
end

