-- ==== Sys2Proof/Machine/Control.lean ====
section
/-!
DEFINITION. The control command NOP (40_control.md R107).
-/

namespace Sys2Proof.Machine

/-- NOP's pseudocode: a commit with nothing staged (R107). -/
def nopBody (s : State) : Body :=
  .ok { state := s, readTo := 0 }

/-- NOP: no operation (R107). -/
def execNop (s : State) : Host.Outcome State Fault Refusal :=
  s.complete (nopBody s)

end Sys2Proof.Machine
end

