-- ==== Sys2Proof/Machine/Varint.lean ====
section
/-!
DEFINITION. The varint codec: the encoder, the decoder, and VENC and VDEC (42_varint.md; layout 30_encoding.md R86).
-/

namespace Sys2Proof.Machine

/-- The encoder's loop, with the number of continuation bytes it may still emit: a byte of the low 7 bits with bit 7
set while the value is above 127, then the remaining value (R150). -/
def vencLoop : Nat → Value → List Byte
  | 0, v => [v.extractLsb' 0 8]
  | fuel + 1, v =>
    if 127 < v.toNat then (v.extractLsb' 0 8 ||| 0x80#8) :: vencLoop fuel (v >>> 7)
    else [v.extractLsb' 0 8]

/-- `venc(v)`: at most nine continuation bytes, since `v < 2^64` (R87, R150). -/
def venc (v : Value) : List Byte := vencLoop 9 v

/-- A varint byte's 7-bit group (R86). -/
def varintGroup (b : Byte) : Nat := (b.extractLsb' 0 7).toNat

/-- A varint byte's continuation bit, bit 7 (R86). -/
def varintMore (b : Byte) : Bool := b.getLsbD 7

/-- The value a list of varint bytes stands for: the sum of its groups times `128^k` (R86). -/
def varintValue : List Byte → Nat
  | [] => 0
  | b :: bs => varintGroup b + 128 * varintValue bs

/-- The decoder's loop: `fuel` bytes are left before the end of the window, `p` is the next address, `k` the number of
bytes read, `acc` the exact sum so far. It answers the sum and the address after the terminator (R151). -/
def vdecLoop (rd : Nat → Byte) : (fuel p k acc : Nat) → Except Raise (Nat × Nat)
  | 0, p, _, _ => .error { kind := .varintOverrun, addr := p, readTo := p }
  | fuel + 1, p, k, acc =>
    if varintMore (rd p) then vdecLoop rd fuel (p + 1) (k + 1) (acc + varintGroup (rd p) * 128 ^ k)
    else .ok (acc + varintGroup (rd p) * 128 ^ k, p + 1)

/-- `vdec(p, end)`: VarintOverrun at the window's end when no terminator is found, then VarintOverflow at the varint's
first byte when the exact value is 2^64 or more; else the value and the address after the varint (R151, R155, R156). -/
def vdec (rd : Nat → Byte) (p stop : Nat) : Except Raise (Value × Nat) :=
  match vdecLoop rd (stop - p) p 0 0 with
  | .error e => .error e
  | .ok (v, q) =>
    if 2 ^ 64 ≤ v then .error { kind := .varintOverflow, addr := p, readTo := q }
    else .ok (BitVec.ofNat 64 v, q)

/-- VENC's pseudocode (R152). -/
def vencBody (s : State) : Body :=
  s.ranged (venc s.val).length
    (.ok { state := { s.memWrite s.base (venc s.val) with cnt := countOf (venc s.val).length }, readTo := 0 })

/-- VDEC's pseudocode (R154). -/
def vdecBody (s : State) : Body :=
  s.ranged s.len.toNat
    (match vdec s.bufByte s.base s.windowEnd with
    | .error e => .error e
    | .ok (v, p) => .ok { state := { s with val := v, cnt := countOf (p - s.base) }, readTo := p })

/-- VENC: VAL is encoded into BUF at ADDR (R152). -/
def execVenc (s : State) : Host.Outcome State Fault Refusal :=
  s.complete (vencBody s)

/-- VDEC: a varint of the window is decoded into VAL (R154). -/
def execVdec (s : State) : Host.Outcome State Fault Refusal :=
  s.complete (vdecBody s)

end Sys2Proof.Machine
end

