-- ==== Sys2Proof/Machine/Framer.lean ====
section
/-!
DEFINITION. The record framer: the outer frame and the header, and OFDEC, OFENC, HDEC, HENC (43_framer.md; layouts
30_encoding.md R78 to R85).
-/

namespace Sys2Proof.Machine

/-! ## Outer frame -/

/-- The length of an outer frame (R79). -/
def frameBytes : Nat := 5

/-- `oframe(hcrc, hlen)` (R170). -/
def oframe (hcrc hlen : Half) : List Byte :=
  [outerMarker, hiByte hcrc, loByte hcrc, hiByte hlen, loByte hlen]

/-- OFDEC's pseudocode. All five bytes are read, even when the marker is wrong (R172). -/
def ofdecBody (s : State) : Body :=
  s.ranged frameBytes
    (if s.bufByte s.base ≠ outerMarker then
      .error { kind := .malformedFrame, addr := s.base, readTo := s.base + frameBytes }
    else
      .ok { state := { s with
              hcrc := be16 (s.bufByte (s.base + 1)) (s.bufByte (s.base + 2)),
              hlen := be16 (s.bufByte (s.base + 3)) (s.bufByte (s.base + 4)),
              cnt := countOf frameBytes },
            readTo := s.base + frameBytes })

/-- OFENC's pseudocode (R173). -/
def ofencBody (s : State) : Body :=
  s.ranged frameBytes
    (.ok { state := { s.memWrite s.base (oframe s.hcrc s.hlen) with cnt := countOf frameBytes }, readTo := 0 })

/-- OFDEC: the outer frame at ADDR is decoded into HCRC and HLEN (R172). -/
def execOfdec (s : State) : Host.Outcome State Fault Refusal :=
  s.complete (ofdecBody s)

/-- OFENC: the outer frame of HCRC and HLEN is written at ADDR (R173). -/
def execOfenc (s : State) : Host.Outcome State Fault Refusal :=
  s.complete (ofencBody s)

/-! ## Header -/

/-- The tail fields of a header (R82, R171). -/
def tailBytes (h : Header) : List Byte :=
  [h.unk1, h.unk2, sizeTag] ++ venc h.psize ++ [crcTag] ++ venc h.pcrc

/-- `hbytes()`: the header byte list of the record registers; the tail fields are omitted when record_type = 2
(R83, R171). -/
def headerBytes (h : Header) : List Byte :=
  [markerA, h.rtype, markerB, markerC] ++ uuidBytes h.uuid ++
    (if h.rtype = noPayloadType then [] else tailBytes h)

/-- `expect(c)`: a sentinel byte at the cursor. It answers the next cursor (R174). -/
def expect (rd : Nat → Byte) (stop : Nat) (c : Byte) (p : Nat) : Except Raise Nat :=
  if stop ≤ p then .error { kind := .malformedHeader, addr := stop, readTo := p }
  else if rd p ≠ c then .error { kind := .malformedHeader, addr := p, readTo := p + 1 }
  else .ok (p + 1)

/-- `take()`: a free byte at the cursor. It answers the byte and the next cursor (R174). -/
def take (rd : Nat → Byte) (stop : Nat) (p : Nat) : Except Raise (Byte × Nat) :=
  if stop ≤ p then .error { kind := .malformedHeader, addr := stop, readTo := p }
  else .ok (rd p, p + 1)

/-- The 16 bytes of the uuid at the cursor, refused whole, before any of them is read, when the window is too short
(R175; log entry 11). It answers the register value and the next cursor. -/
def takeUuid (rd : Nat → Byte) (stop : Nat) (p : Nat) : Except Raise (Uuid × Nat) :=
  if stop < p + 16 then .error { kind := .malformedHeader, addr := stop, readTo := p }
  else .ok (uuidOfBytes ((List.range 16).map (fun i => rd (p + i))), p + 16)

/-- The tail fields, in byte order: unk_byte1, unk_byte2, the size tag and varint, the crc tag and varint (R82, R175).
It answers them and the address after them. -/
def parseTail (rd : Nat → Byte) (stop : Nat) (rt : Byte) (u : Uuid) (p : Nat) : Except Raise (Header × Nat) := do
  let (u1, p) ← take rd stop p
  let (u2, p) ← take rd stop p
  let p ← expect rd stop sizeTag p
  let (ps, p) ← vdec rd p stop
  let p ← expect rd stop crcTag p
  let (pc, p) ← vdec rd p stop
  return ({ rtype := rt, uuid := u, unk1 := u1, unk2 := u2, psize := ps, pcrc := pc }, p)

/-- The header, front to back: the prologue, the uuid, and the tail unless record_type = 2, where "these fields default
to zero" (R175, R205 item 3). It answers the header and the address after it. -/
def parseHeader (rd : Nat → Byte) (stop : Nat) (p : Nat) : Except Raise (Header × Nat) := do
  let p ← expect rd stop markerA p
  let (rt, p) ← take rd stop p
  let p ← expect rd stop markerB p
  let p ← expect rd stop markerC p
  let (u, p) ← takeUuid rd stop p
  if rt = noPayloadType then
    return ({ rtype := rt, uuid := u, unk1 := 0, unk2 := 0, psize := 0, pcrc := 0 }, p)
  else
    parseTail rd stop rt u p

/-- HDEC's pseudocode (R175). -/
def hdecBody (s : State) : Body :=
  s.ranged s.len.toNat
    (match parseHeader s.bufByte s.windowEnd s.base with
    | .error e => .error e
    | .ok (h, p) => .ok { state := { s.setHeader h with cnt := countOf (p - s.base) }, readTo := p })

/-- HENC's pseudocode (R176). -/
def hencBody (s : State) : Body :=
  s.ranged (headerBytes s.header).length
    (.ok { state := { s.memWrite s.base (headerBytes s.header) with
             cnt := countOf (headerBytes s.header).length },
           readTo := 0 })

/-- HDEC: the header in the window is decoded into the record registers (R175). -/
def execHdec (s : State) : Host.Outcome State Fault Refusal :=
  s.complete (hdecBody s)

/-- HENC: the record registers are written as header bytes at ADDR (R176). -/
def execHenc (s : State) : Host.Outcome State Fault Refusal :=
  s.complete (hencBody s)

end Sys2Proof.Machine
end

