-- ==== Sys2Proof/Machine/Dispatch.lean ====
section
/-!
DEFINITION. One arm per command: each calls its own meaning (30_encoding.md R71, 40_control.md R103).
-/

namespace Sys2Proof.Machine

def exec (i : Instr) (s : State) : Host.Outcome State Fault Refusal :=
  match i with
  | .nop => Sys2Proof.Machine.execNop s
  | .crcInit => Sys2Proof.Machine.execCrcInit s
  | .crcByte => Sys2Proof.Machine.execCrcByte s
  | .crcBuf => Sys2Proof.Machine.execCrcBuf s
  | .crc16 => Sys2Proof.Machine.execCrc16 s
  | .reflect w => Sys2Proof.Machine.execReflect w s
  | .venc => Sys2Proof.Machine.execVenc s
  | .vdec => Sys2Proof.Machine.execVdec s
  | .ofdec => Sys2Proof.Machine.execOfdec s
  | .ofenc => Sys2Proof.Machine.execOfenc s
  | .hdec => Sys2Proof.Machine.execHdec s
  | .henc => Sys2Proof.Machine.execHenc s

end Sys2Proof.Machine
end

