-- ==== Sys2Proof/Decode.lean ====
section
/-!
DEFINITION. Reading a command word, and writing one: the command word format and the opcode map
(30_encoding.md R70 to R75), as the rows of the opcode table give them.
-/

namespace Sys2Proof

/-- Why no row of the opcode table matches a word. The engine reports each as IllegalCommand (R73, R202). -/
inductive Reject where
  /-- OP is none of the twelve values of the opcode map (R72 item 1). -/
  | reservedOpcode
  /-- RSV, bits 31:15, is not 0 (R72 item 2). -/
  | reservedBits
  /-- W, bits 14:8, is not 0 in a command other than REFLECT (R72 item 4). -/
  | widthNotAllowed
  deriving DecidableEq, Repr

/-- The opcode field OP, bits 7:0 (R70). -/
def fieldOp (w : Word) : BitVec 8 := w.extractLsb' 0 8

/-- The width field W, bits 14:8 (R70). -/
def fieldW (w : Word) : BitVec 7 := w.extractLsb' 8 7

/-- The reserved field RSV, bits 31:15 (R70). -/
def fieldRsv (w : Word) : BitVec 17 := w.extractLsb' 15 17

/-- REFLECT's opcode, the one row with an operand field (R71). -/
def opReflect : BitVec 8 := 0x05

/-- The rows of the opcode map that have no operand field, with their opcodes (R71). -/
def opcodeMap : List (BitVec 8 × Instr) :=
  [(0x00, .nop), (0x01, .crcInit), (0x02, .crcByte), (0x03, .crcBuf), (0x04, .crc16),
   (0x10, .venc), (0x11, .vdec),
   (0x20, .ofdec), (0x21, .ofenc), (0x22, .hdec), (0x23, .henc)]

/-- The command a word stands for, or why it stands for none. The row of REFLECT takes any W, as its mask in the opcode
table does; the widths it then refuses are `Instr.wellFormed`'s, and REFLECT itself raises IllegalCommand on them
(R126). Log entry 10. -/
def decode (w : Word) : Except Reject Instr :=
  if fieldRsv w ≠ 0 then .error .reservedBits
  else if fieldOp w = opReflect then .ok (.reflect (fieldW w))
  else match opcodeMap.lookup (fieldOp w) with
    | none => .error .reservedOpcode
    | some i => if fieldW w ≠ 0 then .error .widthNotAllowed else .ok i

/-- A command word is legal when it stands for a well-formed command: items 1 to 4 of R72. -/
def legalWord (w : Word) : Bool :=
  match decode w with
  | .ok i => i.wellFormed
  | .error _ => false

/-- A command's opcode (R71). -/
def Instr.opcode : Instr → BitVec 8
  | .nop => 0x00
  | .crcInit => 0x01
  | .crcByte => 0x02
  | .crcBuf => 0x03
  | .crc16 => 0x04
  | .reflect _ => 0x05
  | .venc => 0x10
  | .vdec => 0x11
  | .ofdec => 0x20
  | .ofenc => 0x21
  | .hdec => 0x22
  | .henc => 0x23

/-- A command's width field: 0 in every command but REFLECT (R70). -/
def Instr.width : Instr → BitVec 7
  | .nop => 0
  | .crcInit => 0
  | .crcByte => 0
  | .crcBuf => 0
  | .crc16 => 0
  | .reflect w => w
  | .venc => 0
  | .vdec => 0
  | .ofdec => 0
  | .ofenc => 0
  | .hdec => 0
  | .henc => 0

/-- The word of a command: OP in bits 7:0, W in bits 14:8, RSV = 0 above (R70). -/
def encode (i : Instr) : Word :=
  (i.width.setWidth 32 <<< 8) ||| i.opcode.setWidth 32

/-- The host's question: the command that the decoder reads from a word given by its low `nbits` bits, the bits above
being 0. A command word is exactly 32 bits (R75), so more than 32 bits are no word. -/
def decodeTableWord (nbits w : Nat) : Option Instr :=
  if nbits ≤ 32 then
    match decode (BitVec.ofNat 32 (w % 2 ^ nbits)) with
    | .ok i => some i
    | .error _ => none
  else none

end Sys2Proof
end

