-- ==== Sys2Proof/Machine/HostActions.lean ====
section
/-!
DEFINITION. What the outside world does to the block: the host's four actions (40_control.md R100, R101), the BUSY
hazard (70_reset_and_hazards.md R240), and the reset input (R230 to R233).
-/

namespace Sys2Proof.Machine

/-! ## Command acceptance and the host's actions while BUSY = 0 -/

/-- Acceptance of a command word, whatever its value: CMD takes it and STATUS becomes BUSY (R101). No host write has
disturbed the new pending command. -/
def State.accept (s : State) (w : Word) : State :=
  { s with cmd := w, status := statusBusy, disturbed := false }

/-- `RegRead(n)` while BUSY = 0, or of STATUS at any time: the register's value; a reserved number reads 0
(R21, R100). -/
def State.regValue (s : State) (n : BitVec 8) : Lane :=
  match regOfNumber n with
  | none => 0
  | some r => s.readReg r

/-- `BufRead(a)`: `BUF[a]` in BUF, 0x00 beyond its end (R59). -/
def State.bufValue (s : State) (a : Nat) : Byte :=
  if a < Config.bufBytes then s.bufByte a else 0

/-- `RegWrite(n, v)` while BUSY = 0: CMD accepts a command; a read/write register takes the value; a read-only or
reserved one ignores it (R21, R22, R100, R101). -/
def State.regWriteIdle (s : State) (n : BitVec 8) (v : Lane) : State :=
  match regOfNumber n with
  | none => s
  | some r =>
    if r = .cmd then s.accept (v.setWidth 32)
    else if regReadOnly r then s
    else s.setReg r v

/-- `BufWrite(a, b)` while BUSY = 0: in BUF the byte is stored and marked written; beyond its end nothing happens
(R59, R100). -/
def State.bufWriteIdle (s : State) (a : Nat) (b : Byte) : State :=
  if a < Config.bufBytes then s.memWrite a [b] else s

/-! ## The BUSY hazard (R240) -/

/-- The free value that the hazards draw next. -/
def State.freeLane (s : State) : Lane := Config.freeValue s.draws

/-- A host read while BUSY returns a draw "of the register's width". A reserved number has no width: the whole lane is
free (log entry 9). -/
def State.busyRegValue (s : State) (n : BitVec 8) : Lane :=
  match regOfNumber n with
  | none => s.freeLane
  | some r => BitVec.ofNat 128 (s.freeLane.toNat % 2 ^ regWidth r)

/-- The part common to every host write while BUSY: the fault, and an "unspecified effect on the pending command"
(R240; log entry 7). -/
def State.disturb (s : State) : State :=
  { s.noteFault .hostAccessWhileBusy with disturbed := true }

/-- The free value that a register written while BUSY takes: any value of its width, but for ERRCODE any of the codes
of R200, since no other is ever produced (log entry 8). -/
def State.busyWriteValue (s : State) (r : Reg) : Lane :=
  if r = .errcode then (completionCode (drawnError s.freeLane)).setWidth 128 else s.freeLane

/-- A host write to register `n` while BUSY: the register's own value is a draw as well. STATUS stays exact until
completion, CRC_RESULT is a view of CRC, and a reserved number has no register (R240; log entry 8). -/
def State.regWriteBusy (s : State) (n : BitVec 8) : State :=
  match regOfNumber n with
  | none => s.disturb
  | some r =>
    if r = .status then s.disturb
    else if r = .crcResult then { s.disturb.setReg .crc s.freeLane with draws := s.draws + 1 }
    else { s.disturb.setReg r (s.busyWriteValue r) with draws := s.draws + 1 }

/-- A host write to BUF while BUSY: an "unspecified effect on the pending command and on BUF" (R240; log entry 8). -/
def State.bufWriteBusy (s : State) : State :=
  s.disturb.spoil wholeBuf

/-! ## The host's four actions (R100, R240) -/

/-- `RegRead(n)`. STATUS reads exactly at any time; every other register is a draw while BUSY (R240). -/
def State.regRead (s : State) (n : BitVec 8) : State :=
  if s.busy ∧ n ≠ regNumber .status then
    { s with reply := some (.reg (s.busyRegValue n)), draws := s.draws + 1 }
  else { s with reply := some (.reg (s.regValue n)) }

/-- `RegWrite(n, v)`. -/
def State.regWrite (s : State) (n : BitVec 8) (v : Lane) : State :=
  if s.busy then s.regWriteBusy n else s.regWriteIdle n v

/-- `BufRead(a)`. -/
def State.bufRead (s : State) (a : Word) : State :=
  if s.busy then { s with reply := some (.byte (s.freeLane.setWidth 8)), draws := s.draws + 1 }
  else { s with reply := some (.byte (s.bufValue a.toNat)) }

/-- `BufWrite(a, b)`. -/
def State.bufWrite (s : State) (a : Word) (b : Byte) : State :=
  if s.busy then s.bufWriteBusy else s.bufWriteIdle a.toNat b

/-- One action of the host (R100). -/
def State.hostAct (s : State) : HostAction → State
  | .regRead n => s.regRead n
  | .regWrite n v => s.regWrite n v
  | .bufRead a => s.bufRead a
  | .bufWrite a b => s.bufWrite a b

/-! ## Reset (R230 to R233) -/

/-- How many bytes from ADDR on a command writes to BUF when its range is in BUF; none for a command that writes none
(R62). -/
def writeLength (i : Instr) (s : State) : Nat :=
  match i with
  | .nop => 0
  | .crcInit => 0
  | .crcByte => 0
  | .crcBuf => 0
  | .crc16 => 0
  | .reflect _ => 0
  | .venc => (venc s.val).length
  | .vdec => 0
  | .ofdec => 0
  | .ofenc => frameBytes
  | .hdec => 0
  | .henc => (headerBytes s.header).length

/-- The write range of the pending command, if that range is in BUF (R62, R232). After a host write during BUSY it is
unknown: all of BUF (log entry 7). -/
def State.pendingSpan (s : State) : Span :=
  if s.disturbed then wholeBuf
  else match decode s.cmd with
    | .error _ => { start := s.base, len := 0 }
    | .ok i => { start := s.base, len := if inRange s.base (writeLength i s) then writeLength i s else 0 }

/-- Reset while BUSY = 1 abandons the pending command: the bytes of its write range become unspecified (R232). -/
def State.abandon (s : State) : State :=
  if s.busy then s.spoil s.pendingSpan else s

/-- Every register at its reset value; BUF, the fault, and the outside world's turns as they are (R230, R233). -/
def State.clearRegs (s : State) : State :=
  { State.reset with
    buf := s.buf, fault := s.fault, spoiled := s.spoiled, powerOns := s.powerOns, draws := s.draws,
    inputs := s.inputs, reply := s.reply }

/-- A reset that is not a power-on: "leaves BUF and `written` unchanged, except as rule R232 says" (R231). -/
def State.resetInput (s : State) : State := s.abandon.clearRegs

/-- A power-on reset: BUF is drawn anew and no address is written (R231). The fault stays (R233; log entry 12). -/
def State.powerOnReset (s : State) : State :=
  { s.clearRegs with buf := [], spoiled := [], powerOns := s.powerOns + 1 }

end Sys2Proof.Machine
end

