-- ==== Sys2Proof/Machine/Engine.lean ====
section
/-!
DEFINITION. The engine's one step, `Execute` (40_control.md R102, R103), and the turns of the host and the engine in one
total order (20_memory.md R63).
-/

namespace Sys2Proof.Machine

/-- The `k`-th of the free values that a completion with an unspecified effect draws. -/
def State.freeAt (s : State) (k : Nat) : Lane := Config.freeValue (s.draws + k)

/-- What a pending command with an "unspecified effect" (R240) leaves before its completion: every register that some
command writes (R20), but for STATUS, ERRCODE and ERRADDR, holds a free value, and all of BUF is unspecified. Log
entry 7. -/
def State.freeResults (s : State) : State :=
  { s.spoil wholeBuf with
    crc := (s.freeAt 2).setWidth 16,
    val := (s.freeAt 3).setWidth 64,
    cnt := (s.freeAt 4).setWidth 32,
    hcrc := (s.freeAt 5).setWidth 16,
    hlen := (s.freeAt 6).setWidth 16,
    rtype := (s.freeAt 7).setWidth 8,
    uuid := s.freeAt 8,
    unk1 := (s.freeAt 9).setWidth 8,
    unk2 := (s.freeAt 10).setWidth 8,
    psize := (s.freeAt 11).setWidth 64,
    pcrc := (s.freeAt 12).setWidth 64,
    draws := s.draws + 13,
    disturbed := false }

/-- The completion of a pending command on which a host write during BUSY had an "unspecified effect" (R240): one of
the two forms of R104, with success or an error of R200 by a free value. The error's address is free, but 0 with
IllegalCommand (R27). Log entry 7. -/
def State.completeDisturbed (s : State) : State :=
  match drawnError (s.freeAt 0) with
  | none => s.freeResults.succeed
  | some k => s.freeResults.report k (if k = .illegalCommand then 0 else (s.freeAt 1).toNat % 2 ^ 32)

/-- `Execute`: runs the pending command, CMD, and completes it, in one atomic step. A word that stands for no command
raises IllegalCommand with error address 0, and nothing else is read or written (R102, R103, R202). -/
def execute (s : State) : Host.Outcome State Fault Refusal :=
  if s.disturbed then .next s.completeDisturbed
  else match decode s.cmd with
    | .error _ => s.complete (.error { kind := .illegalCommand, addr := 0, readTo := 0 })
    | .ok i => exec i s

/-- The engine's turn: `Execute` is enabled exactly when STATUS.BUSY = 1; otherwise the engine has no step and nothing
changes (R102). -/
def engineTurn (s : State) : Host.Outcome State Fault Refusal :=
  if s.busy then execute s else .next s

/-- One turn of the outside world (R63; log entry 1). -/
def takeTurn (t : Input) (s : State) : Host.Outcome State Fault Refusal :=
  match t with
  | .host a => .next (s.hostAct a)
  | .engine => engineTurn s
  | .reset => .next s.resetInput
  | .powerOn => .next s.powerOnReset

/-- The next turn: the first of the outside world's, or the engine's own when the outside world has none left, so that
an enabled `Execute` eventually fires (R105). An idle block with no turn left stays as it is (R215). -/
def nextTurn (s : State) : Host.Outcome State Fault Refusal :=
  match s.inputs with
  | [] => engineTurn s
  | t :: ts => takeTurn t { s with inputs := ts }

end Sys2Proof.Machine
end

