-- ==== Sys2Proof/Machine/Step.lean ====
section
/-!
DEFINITION. One step of the model: one turn in the total order of host actions and engine steps (20_memory.md R63).
-/

namespace Sys2Proof.Machine

/-- One step is one turn (R63). -/
def step (s : State) : Host.Outcome State Fault Refusal :=
  nextTurn s

/-- The state in which the word given by its low `nbits` bits is the pending command and the engine's turn is next: CMD
holds it, STATUS is BUSY, no host write has disturbed it, and no turn of the outside world comes first. It stands for
a host's `RegWrite(0, w)` (R101), the only way a command reaches the engine (R66). Log entry 15. -/
def State.withFetchWord (s : State) (nbits w : Nat) : State :=
  { s with cmd := BitVec.ofNat 32 (w % 2 ^ nbits), status := statusBusy, disturbed := false, inputs := [] }

end Sys2Proof.Machine
end

