-- ==== Sys2Proof/Machine/HostSyntax.lean ====
section
/-!
DEFINITION. The host's assembly language as turns of the outside world: the actions of 30_encoding.md R76 and the
pseudo-instructions of R77.
-/

namespace Sys2Proof.Machine

/-- `wr REG, v` (R76). -/
def asmWr (r : Reg) (v : Lane) : List Input := [.host (.regWrite (regNumber r) v)]

/-- `rd REG` (R76). -/
def asmRd (r : Reg) : List Input := [.host (.regRead (regNumber r))]

/-- `wb a, b` (R76). -/
def asmWb (a : Word) (b : Byte) : List Input := [.host (.bufWrite a b)]

/-- `rb a` (R76). -/
def asmRb (a : Word) : List Input := [.host (.bufRead a)]

/-- `cmd MNEMONIC` and `cmd REFLECT, W`: the command's word written to CMD (R76). -/
def asmCmd (i : Instr) : List Input := asmWr .cmd ((encode i).setWidth 128)

/-- `wait`: STATUS is read until BUSY reads 0. The engine fires after `polls` reads that see BUSY = 1; the last read
sees the completion value (R77, R105). -/
def asmWait (polls : Nat) : List Input :=
  (List.replicate polls (asmRd .status)).flatten ++ [.engine] ++ asmRd .status

/-- `wbs a, b0 b1 ... bk`: `wb a, b0`, `wb a+1, b1` and so on (R77). MODEL'S CHOICE: a host BUF address is 32 bits
(R50), and the spec does not say what `wb a+1` is past 0xFFFFFFFF; here `a + 1` wraps, so the next byte goes to
`BUF[0]`. DESIGN CHOICE, unsafe: log entry 19. -/
def asmWbs : Word → List Byte → List Input
  | _, [] => []
  | a, b :: bs => asmWb a b ++ asmWbs (a + 1) bs

/-- `run MNEMONIC`: `cmd` then `wait` (R77). -/
def asmRun (i : Instr) (polls : Nat) : List Input := asmCmd i ++ asmWait polls

/-- `check`: `rd STATUS`; which way the host goes on is the host's own (R77). -/
def asmCheck : List Input := asmRd .status

/-- The value on which `check` goes on, 0x2 (R77). -/
def checkGoesOn (r : Option Reply) : Bool := r == some (.reg 0x2)

end Sys2Proof.Machine
end

