-- ==== Sys2Proof/Safety.lean ====
section
/-!
DEFINITION. What a run that may be relied on is: the host keeps its duties (40_control.md R110, 70_reset_and_hazards.md
R234), and the run ends well (R109). And the invariant that every step keeps.
-/

namespace Sys2Proof.Machine

/-- A run "ends well" in a state where the outside world has no turn left, BUSY = 0 and no model fault is set (R109). -/
def State.endsWell (s : State) : Prop :=
  s.inputs = [] ∧ s.busy = false ∧ s.fault = none

/-- A host action that writes a register or BUF. -/
def isHostWrite : Input → Bool
  | .host (.regWrite _ _) => true
  | .host (.bufWrite _ _) => true
  | .host (.regRead _) => false
  | .host (.bufRead _) => false
  | .engine => false
  | .reset => false
  | .powerOn => false

/-- The next turn is the engine's: its own in the order, or the outside world has none left. -/
def State.engineNext (s : State) : Prop :=
  s.inputs = [] ∨ ∃ ts, s.inputs = .engine :: ts

/-- A command's pseudocode as data: what each command comes to, an error or a commit, before its completion (R103). -/
def bodyOf (i : Instr) (s : State) : Body :=
  match i with
  | .nop => nopBody s
  | .crcInit => crcInitBody s
  | .crcByte => crcByteBody s
  | .crcBuf => crcWindowBody s s.crc
  | .crc16 => crcWindowBody s crcInitValue
  | .reflect w => reflectBody w s
  | .venc => vencBody s
  | .vdec => vdecBody s
  | .ofdec => ofdecBody s
  | .ofenc => ofencBody s
  | .hdec => hdecBody s
  | .henc => hencBody s

/-- The end of the BUF bytes that a command reads from ADDR on (R62). -/
def bodyReadTo : Body → Nat
  | .ok c => c.readTo
  | .error e => e.readTo

/-- The number of BUF bytes that a command reads from ADDR on (R62). -/
def readLength (i : Instr) (s : State) : Nat := bodyReadTo (bodyOf i s) - s.base

/-- The host has written every byte the command will read (R234 item 2). -/
def State.readsWritten (i : Instr) (s : State) : Prop := s.allWritten s.base (readLength i s) = true

/-- The number of bytes from ADDR on that a buffer command checks with `InRange`; none for a command that touches no
BUF byte (R55). -/
def checkedLength (i : Instr) (s : State) : Option Nat :=
  match i with
  | .nop => none
  | .crcInit => none
  | .crcByte => none
  | .crcBuf => some s.len.toNat
  | .crc16 => some s.len.toNat
  | .reflect _ => none
  | .venc => some (venc s.val).length
  | .vdec => some s.len.toNat
  | .ofdec => some 5
  | .ofenc => some 5
  | .hdec => some s.len.toNat
  | .henc => some (headerBytes s.header).length

/-- A terminated varint of `m` bytes stands at address `p`: every byte but the last has its continuation bit set
(R86). -/
def State.varintAt (s : State) (p m : Nat) : Prop :=
  1 ≤ m ∧ (∀ k, k + 1 < m → varintMore (s.bufByte (p + k)) = true) ∧ varintMore (s.bufByte (p + (m - 1))) = false

/-- The value that the `m` bytes at address `p` stand for as a varint (R86). -/
def State.varintValueAt (s : State) (p m : Nat) : Nat := varintValue (s.memRead p m)

/-- The window holds a whole prologue and uuid, with the three markers in place (R81). -/
def State.prologueGood (s : State) : Prop :=
  20 ≤ s.len.toNat ∧ s.bufByte s.base = markerA ∧ s.bufByte (s.base + 2) = markerB ∧
    s.bufByte (s.base + 3) = markerC

/-- The invariant of the block: BUF's canonical form; a legal STATUS (R25); a disturbed command is pending and its fault
recorded (R240, R243); an ERRCODE of R200, "Codes 0x07 to 0xFF are never produced"; a zero ERRADDR without an error or
with IllegalCommand (R27), but while a command is disturbed (log entry 8); and an error reported exactly when ERR is set
on a completed command (R25, R26). -/
structure State.Inv (s : State) : Prop where
  bufForm : Memory.wf s.buf
  statusLegal : legalStatus s.status = true
  disturbedBusy : s.disturbed = true → s.busy = true ∧ s.fault ≠ none
  codeKnown : s.errcode.toNat ≤ 6
  addrZero : s.disturbed = false → s.errcode = 0 ∨ s.errcode = errCode .illegalCommand → s.erraddr = 0
  errShown : s.done = true → (s.err = true ↔ s.errcode ≠ 0)

end Sys2Proof.Machine
end

