-- ==== Sys2Proof/Certificates/Slice0/Obligations.lean ====
section
/-!
DEFINITION. The statements for the provers. In each, a command's result is written out from the spec's rule, and BUF is
read through the model's read of one byte, `State.bufByte`.
-/

open Sys2Proof Sys2Proof.Machine

/-! ## Encoding -/

/-- R70, R72: decoding and encoding agree, both ways, for every command and every word: no bit is dropped, and each
word has one meaning. That the words of REFLECT with W = 0 or W > 64, which are not legal by R72, decode to
`.reflect W` and are refused by the command itself is the model's choice (log entry 10). -/
def Obligations.DecodeInvertsEncode : Prop :=
  ∀ (i : Instr) (w : Word), decode w = .ok i ↔ encode i = w

/-- R72: the legal words by the rule's four items, and by its list of 75. -/
def Obligations.LegalWordsAreThoseOfTheList : Prop :=
  ∀ w : Word,
    (legalWord w = true ↔
      ((w.extractLsb' 0 8 : BitVec 8) ∈
          ([0x00, 0x01, 0x02, 0x03, 0x04, 0x05, 0x10, 0x11, 0x20, 0x21, 0x22, 0x23] : List (BitVec 8)) ∧
        w.extractLsb' 15 17 = 0#17 ∧
        (w.extractLsb' 0 8 = 0x05#8 → 1 ≤ (w.extractLsb' 8 7).toNat ∧ (w.extractLsb' 8 7).toNat ≤ 64) ∧
        (w.extractLsb' 0 8 ≠ 0x05#8 → w.extractLsb' 8 7 = 0#7))) ∧
    (legalWord w = true ↔
      w ∈ ([0x00, 0x01, 0x02, 0x03, 0x04, 0x10, 0x11, 0x20, 0x21, 0x22, 0x23] : List Word) ∨
        ∃ k : Nat, 1 ≤ k ∧ k ≤ 64 ∧ w = 0x00000005#32 ||| (BitVec.ofNat 32 k <<< 8))

/-- R71: words written out from the encoding, one or more of each unit, decode to the commands they stand for. -/
def Obligations.WordsOfTheMapDecode : Prop :=
  decode 0x00000000 = .ok .nop ∧ decode 0x00000001 = .ok .crcInit ∧ decode 0x00000004 = .ok .crc16 ∧
    decode 0x00001005 = .ok (.reflect 16) ∧ decode 0x00000011 = .ok .vdec ∧ decode 0x00000022 = .ok .hdec ∧
    decode 0x00000006 = .error .reservedOpcode ∧ decode 0x00000101 = .error .widthNotAllowed ∧
    decode 0x00008000 = .error .reservedBits

/-! ## The engine -/

/-- R102, R103: at the engine's turn with a command pending, a step is the command's meaning, on the state whose turn
has been taken. The pending command is undisturbed (log entry 7). -/
def Obligations.StepRunsThePendingCommand : Prop :=
  ∀ (s : State) (i : Instr), s.engineNext → s.busy = true → s.disturbed = false → decode s.cmd = .ok i →
    i.wellFormed = true → step s = exec i { s with inputs := s.inputs.tail }

/-- R73, R202: at the engine's turn, a pending word that is not legal raises IllegalCommand with error address 0, and
nothing else changes but the turn taken. The pending command is undisturbed (log entry 7). -/
def Obligations.IllegalWordOnlyReportsIllegalCommand : Prop :=
  ∀ s : State, s.engineNext → s.busy = true → s.disturbed = false → legalWord s.cmd = false →
    step s = .next { s with inputs := s.inputs.tail, status := 0x6, errcode := 0x06, erraddr := 0 }

/-- R102: while BUSY = 0 the engine has no step. -/
def Obligations.IdleEngineChangesNothing : Prop :=
  ∀ s : State, s.engineNext → s.busy = false → step s = .next { s with inputs := s.inputs.tail }

/-- R101: a host write to CMD while BUSY = 0 accepts the word, whatever its value, and leaves ERRCODE, ERRADDR and all
else as they were. The new pending command is undisturbed (log entry 7), and CMD takes the value's low bits (log entry
3). -/
def Obligations.CmdWriteIsAccepted : Prop :=
  ∀ (s : State) (v : Lane) (ts : List Input), s.busy = false → s.inputs = .host (.regWrite 0 v) :: ts →
    step s = .next { s with cmd := v.setWidth 32, status := 0x1, disturbed := false, inputs := ts }

/-- R77, R105: `run` of a well-formed command from an idle block completes after any number of polls that see BUSY =
1, and its last read returns the completion value of STATUS: 0x2 or 0x6. -/
def Obligations.RunCompletesAfterAnyPolls : Prop :=
  ∀ (s : State) (i : Instr) (polls : Nat), s.busy = false → i.wellFormed = true → s.inputs = asmRun i polls →
    ∃ u : State,
      exec i { s with
        cmd := encode i, status := 0x1, disturbed := false, inputs := asmRd .status,
        reply := if polls = 0 then s.reply else some (.reg 0x1) } = .next u ∧
      (u.status = 0x2 ∨ u.status = 0x6) ∧
      Host.Core.run core (polls + 3) s =
        .next { u with inputs := [], reply := some (.reg (u.status.setWidth 128)) }

/-- R105: every step answers a next state: no command hangs, and the model has no other outcome. -/
def Obligations.EveryStepAnswersNext : Prop :=
  ∀ s : State, ∃ t, step s = .next t

/-- R104: a command completes with STATUS = 0x2, ERRCODE and ERRADDR 0, or with STATUS = 0x6 and one of the six codes
of R200. -/
def Obligations.CompletionShowsSuccessOrError : Prop :=
  ∀ (i : Instr) (s : State), ∃ t, exec i s = .next t ∧
    ((t.status = 0x2 ∧ t.errcode = 0 ∧ t.erraddr = 0) ∨
      (t.status = 0x6 ∧ 1 ≤ t.errcode.toNat ∧ t.errcode.toNat ≤ 6))

/-- R203: errors are all-or-nothing. After an error the state is the state before the command but for STATUS, ERRCODE,
ERRADDR (and the ghost `fault`). -/
def Obligations.ErrorsCommitNothing : Prop :=
  ∀ (i : Instr) (s t : State), exec i s = .next t → t.status = 0x6 →
    t = { s with status := 0x6, errcode := t.errcode, erraddr := t.erraddr, fault := t.fault }

/-- R20: no command writes CMD, ADDR or LEN. A command leaves the model's own fields alone too. -/
def Obligations.NoCommandWritesCmdAddrLen : Prop :=
  ∀ (i : Instr) (s t : State), exec i s = .next t →
    t.cmd = s.cmd ∧ t.addr = s.addr ∧ t.len = s.len ∧ t.spoiled = s.spoiled ∧ t.powerOns = s.powerOns ∧
      t.draws = s.draws ∧ t.disturbed = s.disturbed ∧ t.inputs = s.inputs ∧ t.reply = s.reply

/-- R201: a buffer command whose range does not fit in BUF raises BufferRange with ERRADDR = ADDR, and neither reads
nor writes a byte. -/
def Obligations.BufferRangeIsCheckedFirst : Prop :=
  ∀ (i : Instr) (s : State) (n : Nat), checkedLength i s = some n → 65540 < s.addr.toNat + n →
    exec i s = .next { s with status := 0x6, errcode := 0x05, erraddr := s.addr }

/-! ## Control and the checksum engine -/

/-- R107: NOP writes STATUS, ERRCODE and ERRADDR only, and no other word with OP = 0x00 is legal. -/
def Obligations.NopOnlyCompletes : Prop :=
  encode .nop = 0x00000000 ∧
    (∀ s : State, exec .nop s = .next { s with status := 0x2, errcode := 0, erraddr := 0 }) ∧
    ∀ w : Word, w.extractLsb' 0 8 = 0x00#8 → w ≠ 0 → legalWord w = false

/-- R122: CRC_INIT clears CRC, after which CRC_RESULT reads 0. -/
def Obligations.CrcInitClearsCrc : Prop :=
  encode .crcInit = 0x00000001 ∧
    ∀ s : State,
      exec .crcInit s = .next { s with crc := 0x0000, status := 0x2, errcode := 0, erraddr := 0 } ∧
        State.crcResult { s with crc := 0x0000, status := 0x2, errcode := 0, erraddr := 0 } = 0x0000

/-- R123: CRC_BYTE feeds VAL[7:0] and nothing else of VAL. -/
def Obligations.CrcByteFeedsLowByte : Prop :=
  encode .crcByte = 0x00000002 ∧ crcStep 0x0000 0x00 = 0x0000 ∧
    ∀ s : State, exec .crcByte s =
      .next { s with crc := crcStep s.crc (s.val.setWidth 8), status := 0x2, errcode := 0, erraddr := 0 }

/-- R121, R129: one byte fed into CRC is, seen through the final reflection, one step of the right-shift form on the
reflected register. -/
def Obligations.CrcByteIsRightShiftStep : Prop :=
  ∀ s : State, ∃ t, exec .crcByte s = .next t ∧
    t.crcResult = crcRightStep s.crcResult (s.val.setWidth 8)

/-- R124: CRC_BUF feeds the window into the running CRC and sets CNT = LEN; a window that does not fit raises
BufferRange and writes nothing. -/
def Obligations.CrcBufFeedsWindow : Prop :=
  encode .crcBuf = 0x00000003 ∧
    (∀ s : State, s.addr.toNat + s.len.toNat ≤ 65540 →
      exec .crcBuf s = .next { s with
        crc := crcFold s.crc (s.memRead s.addr.toNat s.len.toNat), cnt := s.len,
        status := 0x2, errcode := 0, erraddr := 0,
        fault := s.faultAfterReads s.addr.toNat s.len.toNat }) ∧
    ∀ s : State, 65540 < s.addr.toNat + s.len.toNat →
      exec .crcBuf s = .next { s with status := 0x6, errcode := 0x05, erraddr := s.addr }

/-- R125: after CRC16, CRC_RESULT is `crc16` of the window, by its right-shift form too, and CNT = LEN, whatever CRC
was; a window that does not fit raises BufferRange and leaves CRC and CNT. -/
def Obligations.Crc16ComputesWindowChecksum : Prop :=
  encode .crc16 = 0x00000004 ∧
    (∀ s : State, s.addr.toNat + s.len.toNat ≤ 65540 → ∃ t, exec .crc16 s = .next t ∧
      t = { s with
        crc := crcFold 0x0000 (s.memRead s.addr.toNat s.len.toNat), cnt := s.len,
        status := 0x2, errcode := 0, erraddr := 0,
        fault := s.faultAfterReads s.addr.toNat s.len.toNat } ∧
      t.crcResult = crc16 (s.memRead s.addr.toNat s.len.toNat) ∧
      t.crcResult = crcRight (s.memRead s.addr.toNat s.len.toNat)) ∧
    ∀ s : State, 65540 < s.addr.toNat + s.len.toNat →
      exec .crc16 s = .next { s with status := 0x6, errcode := 0x05, erraddr := s.addr }

/-- R120, R126: REFLECT with a width in 1..64 puts bit `W-1-j` of VAL at bit `j` for `j < W` and 0 above; with any
other width it raises IllegalCommand. -/
def Obligations.ReflectReversesLowBits : Prop :=
  ∀ (w : BitVec 7) (s : State),
    encode (.reflect w) = 0x00000005#32 ||| (w.setWidth 32 <<< 8) ∧
    (1 ≤ w.toNat → w.toNat ≤ 64 → ∃ v : Value,
      exec (.reflect w) s = .next { s with val := v, status := 0x2, errcode := 0, erraddr := 0 } ∧
      ∀ j, j < 64 → v.getLsbD j = (decide (j < w.toNat) && s.val.getLsbD (w.toNat - 1 - j))) ∧
    (w.toNat = 0 ∨ 64 < w.toNat →
      exec (.reflect w) s = .next { s with status := 0x6, errcode := 0x06, erraddr := 0 })

/-- R129: the left-shift form with both reflections is the right-shift form with 0xA001 and no reflection. -/
def Obligations.Crc16EqualsRightShiftForm : Prop :=
  reflect crcPoly 16 = 0xA001#16 ∧ ∀ bs : List Byte, crc16 bs = crcRight bs

/-- R130: leading zero bytes do not change the CRC. -/
def Obligations.Crc16IgnoresLeadingZeros : Prop :=
  crcStep 0x0000 0x00 = 0x0000 ∧ crc16 [] = 0x0000 ∧
    ∀ (k : Nat) (bs : List Byte), crc16 (List.replicate k 0x00#8 ++ bs) = crc16 bs

/-- R131: the CRC is linear on byte lists of equal length, and no single-bit change of a byte list leaves it
unchanged. -/
def Obligations.Crc16IsLinearAndSeesBitFlips : Prop :=
  (∀ as bs : List Byte, as.length = bs.length →
    crc16 (List.zipWith (· ^^^ ·) as bs) = crc16 as ^^^ crc16 bs) ∧
  ∀ (bs : List Byte) (k j : Nat) (h : k < bs.length), j < 8 →
    crc16 (bs.set k (bs[k] ^^^ (1#8 <<< j))) ≠ crc16 bs

/-- R132: two CRC_BUF commands over adjacent windows leave the CRC that one over their union leaves. -/
def Obligations.CrcBufSplitsOverAdjacentWindows : Prop :=
  ∀ (s t1 t2 t : State) (m n : Nat), s.addr.toNat + (m + n) ≤ 65540 →
    exec .crcBuf { s with len := BitVec.ofNat 32 m } = .next t1 →
    exec .crcBuf { t1 with addr := BitVec.ofNat 32 (s.addr.toNat + m), len := BitVec.ofNat 32 n } = .next t2 →
    exec .crcBuf { s with len := BitVec.ofNat 32 (m + n) } = .next t →
    t2.crc = t.crc

/-! ## The varint codec -/

/-- R150, R152: VENC writes the `n` bytes of VAL's base-128 form, least significant group first, bit 7 set in all but
the last, and CNT = n; every byte outside them, and every other register, is as it was. `n` is the length of R87. -/
def Obligations.VencWritesBaseHundredTwentyEight : Prop :=
  encode .venc = 0x00000010 ∧
    ∀ (s : State) (n : Nat), 1 ≤ n → s.val.toNat < 2 ^ (7 * n) → (n = 1 ∨ 2 ^ (7 * (n - 1)) ≤ s.val.toNat) →
      (s.addr.toNat + n ≤ 65540 → ∃ t,
        exec .venc s = .next t ∧
        t = { s with buf := t.buf, cnt := BitVec.ofNat 32 n, status := 0x2, errcode := 0, erraddr := 0 } ∧
        (∀ k, k < n → t.written (s.addr.toNat + k) = true ∧
          t.bufByte (s.addr.toNat + k) =
            BitVec.ofNat 8 (s.val.toNat / 128 ^ k % 128 + (if k + 1 < n then 128 else 0))) ∧
        ∀ a, a < s.addr.toNat ∨ s.addr.toNat + n ≤ a →
          t.bufByte a = s.bufByte a ∧ t.written a = s.written a) ∧
      (65540 < s.addr.toNat + n →
        exec .venc s = .next { s with status := 0x6, errcode := 0x05, erraddr := s.addr })

/-- R87: the encoder's length is 1 below 2^7, else the least `m` with `v < 2^(7m)`, and at most 10. -/
def Obligations.VencLengthIsLeast : Prop :=
  ∀ v : Value,
    (v.toNat < 2 ^ 7 → (venc v).length = 1) ∧ v.toNat < 2 ^ (7 * (venc v).length) ∧
      (∀ m, 1 ≤ m → v.toNat < 2 ^ (7 * m) → (venc v).length ≤ m) ∧ (venc v).length ≤ 10

/-- R151, R154, R158: VDEC of a window that begins with a terminated varint, canonical or not, whose exact value is
below 2^64 sets VAL to that value and CNT to the number of its bytes, and changes nothing else. -/
def Obligations.VdecDecodesTerminatedVarint : Prop :=
  ∀ (s : State) (m : Nat), s.addr.toNat + s.len.toNat ≤ 65540 → m ≤ s.len.toNat → s.varintAt s.addr.toNat m →
    s.varintValueAt s.addr.toNat m < 2 ^ 64 →
    exec .vdec s = .next { s with
      val := BitVec.ofNat 64 (s.varintValueAt s.addr.toNat m), cnt := BitVec.ofNat 32 m,
      status := 0x2, errcode := 0, erraddr := 0, fault := s.faultAfterReads s.addr.toNat m }

/-- R155, R157: VDEC of a window with no byte whose bit 7 is clear, the empty window among them, raises VarintOverrun
at the window's end. -/
def Obligations.VdecOverrunsWithoutTerminator : Prop :=
  ∀ s : State, s.addr.toNat + s.len.toNat ≤ 65540 →
    (∀ k, k < s.len.toNat → (s.bufByte (s.addr.toNat + k)).getLsbD 7 = true) →
    exec .vdec s = .next { s with
      status := 0x6, errcode := 0x03, erraddr := BitVec.ofNat 32 (s.addr.toNat + s.len.toNat),
      fault := s.faultAfterReads s.addr.toNat s.len.toNat }

/-- R156: VDEC of a terminated varint whose exact value is 2^64 or more raises VarintOverflow at the varint's first
byte. -/
def Obligations.VdecOverflowsAtTwoToSixtyFour : Prop :=
  ∀ (s : State) (m : Nat), s.addr.toNat + s.len.toNat ≤ 65540 → m ≤ s.len.toNat → s.varintAt s.addr.toNat m →
    2 ^ 64 ≤ s.varintValueAt s.addr.toNat m →
    exec .vdec s = .next { s with
      status := 0x6, errcode := 0x04, erraddr := s.addr, fault := s.faultAfterReads s.addr.toNat m }

/-- R153: VENC followed by VDEC with the same ADDR and LEN = CNT sets VAL back to its value and CNT to the same count,
and sets no fault. -/
def Obligations.VencThenVdecRestoresVal : Prop :=
  ∀ (s t : State) (v : Value), exec .venc s = .next t → t.status = 0x2 →
    ∃ u, exec .vdec { t with val := v, len := t.cnt } = .next u ∧
      u.val = s.val ∧ u.cnt = t.cnt ∧ u.status = 0x2 ∧ u.fault = s.fault

/-! ## The record framer -/

/-- R172: OFDEC of a frame with the marker 0x40 sets HCRC and HLEN to the big-endian pairs and CNT = 5; with another
marker it raises MalformedFrame at ADDR. All five bytes are read either way. -/
def Obligations.OfdecDecodesFrame : Prop :=
  encode .ofdec = 0x00000020 ∧
    (∀ s : State, s.addr.toNat + 5 ≤ 65540 →
      (s.bufByte s.addr.toNat = 0x40 → ∃ hc hl : Half,
        exec .ofdec s = .next { s with
          hcrc := hc, hlen := hl, cnt := 5, status := 0x2, errcode := 0, erraddr := 0,
          fault := s.faultAfterReads s.addr.toNat 5 } ∧
        hc.toNat = (s.bufByte (s.addr.toNat + 1)).toNat * 256 + (s.bufByte (s.addr.toNat + 2)).toNat ∧
        hl.toNat = (s.bufByte (s.addr.toNat + 3)).toNat * 256 + (s.bufByte (s.addr.toNat + 4)).toNat) ∧
      (s.bufByte s.addr.toNat ≠ 0x40 →
        exec .ofdec s = .next { s with
          status := 0x6, errcode := 0x01, erraddr := s.addr, fault := s.faultAfterReads s.addr.toNat 5 })) ∧
    ∀ s : State, 65540 < s.addr.toNat + 5 →
      exec .ofdec s = .next { s with status := 0x6, errcode := 0x05, erraddr := s.addr }

/-- R170, R173: OFENC writes the marker and the two fields' bytes, high byte first, and CNT = 5; every byte outside
them, and every other register, is as it was. -/
def Obligations.OfencWritesFrame : Prop :=
  encode .ofenc = 0x00000021 ∧
    ∀ s : State, s.addr.toNat + 5 ≤ 65540 → ∃ t,
      exec .ofenc s = .next t ∧
      t = { s with buf := t.buf, cnt := 5, status := 0x2, errcode := 0, erraddr := 0 } ∧
      t.bufByte s.addr.toNat = 0x40 ∧
      (t.bufByte (s.addr.toNat + 1)).toNat = s.hcrc.toNat / 256 ∧
      (t.bufByte (s.addr.toNat + 2)).toNat = s.hcrc.toNat % 256 ∧
      (t.bufByte (s.addr.toNat + 3)).toNat = s.hlen.toNat / 256 ∧
      (t.bufByte (s.addr.toNat + 4)).toNat = s.hlen.toNat % 256 ∧
      (∀ k, k < 5 → t.written (s.addr.toNat + k) = true) ∧
      ∀ a, a < s.addr.toNat ∨ s.addr.toNat + 5 ≤ a → t.bufByte a = s.bufByte a ∧ t.written a = s.written a

/-- R173: OFENC then OFDEC at the same ADDR returns the same HCRC and HLEN, whatever they were in between. -/
def Obligations.OfencThenOfdecRestoresFields : Prop :=
  ∀ (s t : State) (hc hl : Half), exec .ofenc s = .next t → t.status = 0x2 →
    ∃ u, exec .ofdec { t with hcrc := hc, hlen := hl } = .next u ∧
      u.hcrc = s.hcrc ∧ u.hlen = s.hlen ∧ u.cnt = 5 ∧ u.status = 0x2 ∧ u.fault = s.fault

/-- R171, R176: HENC writes the header bytes of the record registers, the tail only when RTYPE is not 2, and CNT is
their number; every byte outside them, and every other register, is as it was. -/
def Obligations.HencWritesHeader : Prop :=
  encode .henc = 0x00000023 ∧
    ∀ (s : State) (hs : List Byte),
      hs = [0x08#8, s.rtype, 0x12#8, 0x10#8] ++ (List.range 16).map (fun i => s.uuid.extractLsb' (8 * i) 8) ++
        (if s.rtype = 2 then []
         else [s.unk1, s.unk2, 0x28#8] ++ venc s.psize ++ [0x30#8] ++ venc s.pcrc) →
      (s.addr.toNat + hs.length ≤ 65540 → ∃ t,
        exec .henc s = .next t ∧
        t = { s with buf := t.buf, cnt := BitVec.ofNat 32 hs.length, status := 0x2, errcode := 0, erraddr := 0 } ∧
        t.memRead s.addr.toNat hs.length = hs ∧
        (∀ k, k < hs.length → t.written (s.addr.toNat + k) = true) ∧
        ∀ a, a < s.addr.toNat ∨ s.addr.toNat + hs.length ≤ a →
          t.bufByte a = s.bufByte a ∧ t.written a = s.written a) ∧
      (65540 < s.addr.toNat + hs.length →
        exec .henc s = .next { s with status := 0x6, errcode := 0x05, erraddr := s.addr })

/-- R84: the header lengths the encoder produces: 20 for record_type 2, else 24 and the two varint lengths, from 26 to
44. -/
def Obligations.HeaderLengthIsBounded : Prop :=
  ∀ h : Header,
    (h.rtype = 2 → (headerBytes h).length = 20) ∧
    (h.rtype ≠ 2 → (headerBytes h).length = 24 + (venc h.psize).length + (venc h.pcrc).length ∧
      26 ≤ (headerBytes h).length ∧ (headerBytes h).length ≤ 44)

/-- R175, R179: HDEC of a window that begins with a header of record_type 2 sets the record registers from it, the
tail registers to 0 and CNT to 20; whatever follows in the window is not read. -/
def Obligations.HdecDecodesTypeTwoHeader : Prop :=
  ∀ s : State, s.addr.toNat + s.len.toNat ≤ 65540 → s.prologueGood → s.bufByte (s.addr.toNat + 1) = 2 →
    ∃ u : Uuid,
      exec .hdec s = .next { s with
        rtype := 2, uuid := u, unk1 := 0, unk2 := 0, psize := 0, pcrc := 0, cnt := 20,
        status := 0x2, errcode := 0, erraddr := 0, fault := s.faultAfterReads s.addr.toNat 20 } ∧
      ∀ i, i < 16 → u.extractLsb' (8 * i) 8 = s.bufByte (s.addr.toNat + 4 + i)

/-- R175, R179, R181, R183: HDEC of a window that begins with a header of any other record_type, its varints canonical
or not, sets the record registers from it and CNT to its length; whatever follows in the window is not read. -/
def Obligations.HdecDecodesHeaderWithTail : Prop :=
  ∀ (s : State) (m n : Nat), s.addr.toNat + s.len.toNat ≤ 65540 → s.prologueGood →
    s.bufByte (s.addr.toNat + 1) ≠ 2 → 24 + m + n ≤ s.len.toNat →
    s.bufByte (s.addr.toNat + 22) = 0x28 → s.bufByte (s.addr.toNat + 23 + m) = 0x30 →
    s.varintAt (s.addr.toNat + 23) m → s.varintValueAt (s.addr.toNat + 23) m < 2 ^ 64 →
    s.varintAt (s.addr.toNat + 24 + m) n → s.varintValueAt (s.addr.toNat + 24 + m) n < 2 ^ 64 →
    ∃ u : Uuid,
      exec .hdec s = .next { s with
        rtype := s.bufByte (s.addr.toNat + 1), uuid := u,
        unk1 := s.bufByte (s.addr.toNat + 20), unk2 := s.bufByte (s.addr.toNat + 21),
        psize := BitVec.ofNat 64 (s.varintValueAt (s.addr.toNat + 23) m),
        pcrc := BitVec.ofNat 64 (s.varintValueAt (s.addr.toNat + 24 + m) n),
        cnt := BitVec.ofNat 32 (24 + m + n),
        status := 0x2, errcode := 0, erraddr := 0, fault := s.faultAfterReads s.addr.toNat (24 + m + n) } ∧
      ∀ i, i < 16 → u.extractLsb' (8 * i) 8 = s.bufByte (s.addr.toNat + 4 + i)

/-- R174, R205: the prologue's checks, in byte order. The first that fails decides: MalformedHeader at the wrong
sentinel, or at the window's end when the window ends inside a fixed field. -/
def Obligations.HdecReportsFirstPrologueError : Prop :=
  ∀ (s : State) (a : Nat), s.addr.toNat + s.len.toNat ≤ 65540 →
    (if s.len.toNat = 0 then some (s.addr.toNat + s.len.toNat)
      else if s.bufByte s.addr.toNat ≠ 0x08 then some s.addr.toNat
      else if s.len.toNat ≤ 2 then some (s.addr.toNat + s.len.toNat)
      else if s.bufByte (s.addr.toNat + 2) ≠ 0x12 then some (s.addr.toNat + 2)
      else if s.len.toNat ≤ 3 then some (s.addr.toNat + s.len.toNat)
      else if s.bufByte (s.addr.toNat + 3) ≠ 0x10 then some (s.addr.toNat + 3)
      else if s.len.toNat < 20 then some (s.addr.toNat + s.len.toNat)
      else none) = some a →
    ∃ f, exec .hdec s = .next { s with
        status := 0x6, errcode := 0x02, erraddr := BitVec.ofNat 32 a, fault := f } ∧
      (s.allWritten s.addr.toNat s.len.toNat = true → f = s.fault)

/-- R174, R205: after a good prologue of a record_type other than 2, the unknown bytes and the size tag, in byte
order: MalformedHeader at the window's end or at the wrong tag. -/
def Obligations.HdecReportsFirstTailFieldError : Prop :=
  ∀ (s : State) (a : Nat), s.addr.toNat + s.len.toNat ≤ 65540 → s.prologueGood →
    s.bufByte (s.addr.toNat + 1) ≠ 2 →
    (if s.len.toNat ≤ 22 then some (s.addr.toNat + s.len.toNat)
      else if s.bufByte (s.addr.toNat + 22) ≠ 0x28 then some (s.addr.toNat + 22)
      else none) = some a →
    ∃ f, exec .hdec s = .next { s with
        status := 0x6, errcode := 0x02, erraddr := BitVec.ofNat 32 a, fault := f } ∧
      (s.allWritten s.addr.toNat s.len.toNat = true → f = s.fault)

/-- R155, R156, R175: a payload_size varint that runs to the window's end is VarintOverrun there; a terminated one of
2^64 or more is VarintOverflow at its first byte; after one that is neither, a missing or wrong crc tag is
MalformedHeader at the window's end or at the tag. -/
def Obligations.HdecReportsSizeVarintAndCrcTagErrors : Prop :=
  ∀ s : State, s.addr.toNat + s.len.toNat ≤ 65540 → s.prologueGood → s.bufByte (s.addr.toNat + 1) ≠ 2 →
    23 ≤ s.len.toNat → s.bufByte (s.addr.toNat + 22) = 0x28 →
    ((∀ k, 23 ≤ k → k < s.len.toNat → (s.bufByte (s.addr.toNat + k)).getLsbD 7 = true) →
      ∃ f, exec .hdec s = .next { s with
        status := 0x6, errcode := 0x03, erraddr := BitVec.ofNat 32 (s.addr.toNat + s.len.toNat), fault := f } ∧
        (s.allWritten s.addr.toNat s.len.toNat = true → f = s.fault)) ∧
    ∀ m, 23 + m ≤ s.len.toNat → s.varintAt (s.addr.toNat + 23) m →
      (2 ^ 64 ≤ s.varintValueAt (s.addr.toNat + 23) m →
        ∃ f, exec .hdec s = .next { s with
          status := 0x6, errcode := 0x04, erraddr := BitVec.ofNat 32 (s.addr.toNat + 23), fault := f } ∧
          (s.allWritten s.addr.toNat s.len.toNat = true → f = s.fault)) ∧
      (s.varintValueAt (s.addr.toNat + 23) m < 2 ^ 64 →
        s.len.toNat = 23 + m ∨ s.bufByte (s.addr.toNat + 23 + m) ≠ 0x30 →
        ∃ f, exec .hdec s = .next { s with
          status := 0x6, errcode := 0x02, erraddr := BitVec.ofNat 32 (s.addr.toNat + 23 + m), fault := f } ∧
          (s.allWritten s.addr.toNat s.len.toNat = true → f = s.fault))

/-- R155, R156, R175: after a good payload_size varint and crc tag, a payload_crc varint that runs to the window's end
is VarintOverrun there, and a terminated one of 2^64 or more is VarintOverflow at its first byte. -/
def Obligations.HdecReportsCrcVarintErrors : Prop :=
  ∀ (s : State) (m : Nat), s.addr.toNat + s.len.toNat ≤ 65540 → s.prologueGood →
    s.bufByte (s.addr.toNat + 1) ≠ 2 → 24 + m ≤ s.len.toNat → s.bufByte (s.addr.toNat + 22) = 0x28 →
    s.varintAt (s.addr.toNat + 23) m → s.varintValueAt (s.addr.toNat + 23) m < 2 ^ 64 →
    s.bufByte (s.addr.toNat + 23 + m) = 0x30 →
    ((∀ k, 24 + m ≤ k → k < s.len.toNat → (s.bufByte (s.addr.toNat + k)).getLsbD 7 = true) →
      ∃ f, exec .hdec s = .next { s with
        status := 0x6, errcode := 0x03, erraddr := BitVec.ofNat 32 (s.addr.toNat + s.len.toNat), fault := f } ∧
        (s.allWritten s.addr.toNat s.len.toNat = true → f = s.fault)) ∧
    ∀ n, 24 + m + n ≤ s.len.toNat → s.varintAt (s.addr.toNat + 24 + m) n →
      2 ^ 64 ≤ s.varintValueAt (s.addr.toNat + 24 + m) n →
      ∃ f, exec .hdec s = .next { s with
        status := 0x6, errcode := 0x04, erraddr := BitVec.ofNat 32 (s.addr.toNat + 24 + m), fault := f } ∧
        (s.allWritten s.addr.toNat s.len.toNat = true → f = s.fault)

/-- R177: HENC at `a`, then HDEC with ADDR = `a` and LEN = CNT, whatever the record registers held in between,
restores RTYPE and UUID and CNT, and the tail registers too unless RTYPE = 2, when they become 0; no fault is set. -/
def Obligations.HencThenHdecRestoresRecord : Prop :=
  ∀ (s t : State) (h : Header), exec .henc s = .next t → t.status = 0x2 →
    ∃ u, exec .hdec { t.setHeader h with len := t.cnt } = .next u ∧
      u.status = 0x2 ∧ u.cnt = t.cnt ∧ u.fault = s.fault ∧ u.rtype = s.rtype ∧ u.uuid = s.uuid ∧
      (s.rtype ≠ 2 → u.unk1 = s.unk1 ∧ u.unk2 = s.unk2 ∧ u.psize = s.psize ∧ u.pcrc = s.pcrc) ∧
      (s.rtype = 2 → u.unk1 = 0 ∧ u.unk2 = 0 ∧ u.psize = 0 ∧ u.pcrc = 0)

/-! ## Frames -/

/-- The commands that touch no BUF byte change CRC (CRC_INIT, CRC_BYTE alone), VAL (REFLECT alone), STATUS, ERRCODE
and ERRADDR, and no other register, no byte of BUF and not the fault (R20, R62, R74). -/
def Obligations.FrameOfRegisterCommands : Prop :=
  ∀ (i : Instr) (s t : State), checkedLength i s = none → exec i s = .next t →
    t = { s with crc := t.crc, val := t.val, status := t.status, errcode := t.errcode, erraddr := t.erraddr } ∧
      (i ≠ .crcInit → i ≠ .crcByte → t.crc = s.crc) ∧
      ((∀ w, i ≠ .reflect w) → t.val = s.val) ∧
      ∀ a, t.bufByte a = s.bufByte a ∧ t.written a = s.written a

/-- The commands that read BUF change CRC (CRC_BUF, CRC16), VAL (VDEC), HCRC and HLEN (OFDEC), the record registers
(HDEC), CNT, STATUS, ERRCODE, ERRADDR and the ghost `fault`, and no other register and no byte of BUF (R20, R62, R74).
-/
def Obligations.FrameOfReadingCommands : Prop :=
  ∀ (i : Instr) (s t : State), i ∈ ([.crcBuf, .crc16, .vdec, .ofdec, .hdec] : List Instr) → exec i s = .next t →
    t = { s with
      crc := t.crc, val := t.val, cnt := t.cnt, hcrc := t.hcrc, hlen := t.hlen, rtype := t.rtype, uuid := t.uuid,
      unk1 := t.unk1, unk2 := t.unk2, psize := t.psize, pcrc := t.pcrc, status := t.status, errcode := t.errcode,
      erraddr := t.erraddr, fault := t.fault } ∧
      (i ≠ .crcBuf → i ≠ .crc16 → t.crc = s.crc) ∧
      (i ≠ .vdec → t.val = s.val) ∧
      (i ≠ .ofdec → t.hcrc = s.hcrc ∧ t.hlen = s.hlen) ∧
      (i ≠ .hdec → t.header = s.header) ∧
      ∀ a, t.bufByte a = s.bufByte a ∧ t.written a = s.written a

/-- The commands that write BUF change CNT, STATUS, ERRCODE and ERRADDR, no other register and not the fault; and
every byte outside the `writeLength` bytes from ADDR on is as it was (R20, R62, R74). -/
def Obligations.FrameOfWritingCommands : Prop :=
  ∀ (i : Instr) (s t : State), i ∈ ([.venc, .ofenc, .henc] : List Instr) → exec i s = .next t →
    t = { s with buf := t.buf, cnt := t.cnt, status := t.status, errcode := t.errcode, erraddr := t.erraddr } ∧
      ∀ a, a < s.addr.toNat ∨ s.addr.toNat + writeLength i s ≤ a →
        t.bufByte a = s.bufByte a ∧ t.written a = s.written a

/-- R62: "A byte a command does not read, it does not depend on": two states that differ in BUF alone and agree on the
bytes the command reads, and on whether they are written, are left by it differing in BUF alone. -/
def Obligations.CommandsIgnoreUnreadBytes : Prop :=
  ∀ (i : Instr) (s s' t t' : State),
    s' = { s with buf := s'.buf, spoiled := s'.spoiled, powerOns := s'.powerOns } →
    (∀ k, k < readLength i s → s'.bufByte (s.addr.toNat + k) = s.bufByte (s.addr.toNat + k) ∧
      s'.written (s.addr.toNat + k) = s.written (s.addr.toNat + k)) →
    exec i s = .next t → exec i s' = .next t' →
    t' = { t with buf := t'.buf, spoiled := t'.spoiled, powerOns := t'.powerOns }

/-! ## Model faults and the BUSY hazard -/

/-- R233, R243: a fault, once set, is kept with its first reason by every step (by a power-on, log entry 12). -/
def Obligations.FaultIsSticky : Prop :=
  ∀ (s t : State) (r : Fault), s.fault = some r → step s = .next t → t.fault = some r

/-- R231, R240, R243: a fault is set by a host write while BUSY = 1, or by a pending command that reads a byte not
written, and by nothing else. -/
def Obligations.FaultsHaveTwoCausesOnly : Prop :=
  ∀ (s t : State) (r : Fault), s.fault = none → step s = .next t → t.fault = some r →
    s.busy = true ∧
      ((r = .hostAccessWhileBusy ∧ ∃ x ts, s.inputs = x :: ts ∧ isHostWrite x = true) ∨
        (r = .readUnwritten ∧ s.engineNext ∧ ∃ i, decode s.cmd = .ok i ∧ ¬ s.readsWritten i))

/-- R231, R243: a pending command that reads a byte not written sets `ReadUnwritten` and still completes. -/
def Obligations.UnwrittenReadFaultsAndCompletes : Prop :=
  ∀ (s : State) (i : Instr), s.engineNext → s.busy = true → s.disturbed = false → s.fault = none →
    decode s.cmd = .ok i → ¬ s.readsWritten i →
    ∃ t, step s = .next t ∧ t.fault = some .readUnwritten ∧ (t.status = 0x2 ∨ t.status = 0x6)

/-- R240: a host write while BUSY = 1, to a register or to BUF, sets `HostAccessWhileBusy` unless a fault is set
already; STATUS stays 0x1 until completion. The pending command is marked as disturbed (log entry 7). -/
def Obligations.BusyHostWriteFaults : Prop :=
  ∀ (s : State) (x : Input) (ts : List Input), s.busy = true → s.inputs = x :: ts → isHostWrite x = true →
    ∃ t, step s = .next t ∧ t.status = s.status ∧ t.inputs = ts ∧ t.disturbed = true ∧
      t.fault = (match s.fault with
        | some r => some r
        | none => some .hostAccessWhileBusy)

/-- R240: while BUSY = 1 a host read of STATUS is exact and changes nothing else; a host read of any other register of
R20 returns some value of the register's width, and of a BUF byte at any address some byte; neither sets a fault. A
reserved number has no width: some value of 128 bits, the model's choice (log entry 9). -/
def Obligations.BusyHostReads : Prop :=
  ∀ (s : State) (ts : List Input), s.busy = true →
    (s.inputs = .host (.regRead 1) :: ts →
      step s = .next { s with inputs := ts, reply := some (.reg (s.status.setWidth 128)) }) ∧
    (∀ n r, s.inputs = .host (.regRead n) :: ts → regOfNumber n = some r → n ≠ 1 →
      ∃ v : Lane, v.toNat < 2 ^ regWidth r ∧
        step s = .next { s with inputs := ts, reply := some (.reg v), draws := s.draws + 1 }) ∧
    (∀ a, s.inputs = .host (.bufRead a) :: ts →
      ∃ b : Byte, step s = .next { s with inputs := ts, reply := some (.byte b), draws := s.draws + 1 }) ∧
    (∀ n, s.inputs = .host (.regRead n) :: ts → 18 ≤ n.toNat →
      ∃ v : Lane, step s = .next { s with inputs := ts, reply := some (.reg v), draws := s.draws + 1 })

/-! ## The host's actions while BUSY = 0 -/

/-- R58, R100: while BUSY = 0, a host read of any number returns the register's value and changes nothing else; a host
write to a read/write register leaves there the value's low bits of the register's width (log entry 3), and every other
register but CRC_RESULT (a view of CRC) and every byte of BUF as before; BUSY is still 0, so the reads that follow
return so. The numbers are those of R20. -/
def Obligations.RegisterWriteReadsBack : Prop :=
  ∀ (s : State) (ts : List Input), s.busy = false →
    (∀ (r : Reg) (v : Lane), regReadOnly r = false → r ≠ .cmd →
      s.inputs = .host (.regWrite (regNumber r) v) :: ts →
      ∃ t, step s = .next t ∧
        (t.regValue (regNumber r)).toNat = v.toNat % 2 ^ regWidth r ∧
        (∀ q, q ≠ r → (q = .crcResult → r ≠ .crc) → t.regValue (regNumber q) = s.regValue (regNumber q)) ∧
        (∀ a, t.bufByte a = s.bufByte a ∧ t.written a = s.written a) ∧ t.fault = s.fault ∧
        t.busy = false ∧ t.inputs = ts) ∧
    (∀ n : BitVec 8, s.inputs = .host (.regRead n) :: ts →
      step s = .next { s with inputs := ts, reply := some (.reg (s.regValue n)) }) ∧
    s.regValue 0 = s.cmd.setWidth 128 ∧ s.regValue 1 = s.status.setWidth 128 ∧
    s.regValue 2 = s.errcode.setWidth 128 ∧ s.regValue 3 = s.erraddr.setWidth 128 ∧
    s.regValue 4 = s.crc.setWidth 128 ∧ s.regValue 5 = s.crcResult.setWidth 128 ∧
    s.regValue 6 = s.val.setWidth 128 ∧ s.regValue 7 = s.addr.setWidth 128 ∧ s.regValue 8 = s.len.setWidth 128 ∧
    s.regValue 9 = s.cnt.setWidth 128 ∧ s.regValue 10 = s.hcrc.setWidth 128 ∧ s.regValue 11 = s.hlen.setWidth 128 ∧
    s.regValue 12 = s.rtype.setWidth 128 ∧ s.regValue 13 = s.uuid ∧ s.regValue 14 = s.unk1.setWidth 128 ∧
    s.regValue 15 = s.unk2.setWidth 128 ∧ s.regValue 16 = s.psize.setWidth 128 ∧
    s.regValue 17 = s.pcrc.setWidth 128 ∧ ∀ n : BitVec 8, 18 ≤ n.toNat → s.regValue n = 0

/-- R21, R22: while BUSY = 0, a host write to a read-only register or to a reserved number changes no state but the
turn taken; a host read of a reserved number returns 0. -/
def Obligations.ReadOnlyAndReservedWritesAreIgnored : Prop :=
  ∀ (s : State) (n : BitVec 8) (ts : List Input), s.busy = false →
    ((n = 1 ∨ n = 2 ∨ n = 3 ∨ n = 5 ∨ n = 9 ∨ 18 ≤ n.toNat) →
      ∀ v : Lane, s.inputs = .host (.regWrite n v) :: ts → step s = .next { s with inputs := ts }) ∧
    (18 ≤ n.toNat → s.inputs = .host (.regRead n) :: ts →
      step s = .next { s with inputs := ts, reply := some (.reg 0) })

/-- R29, R58: while BUSY = 0 a host read of CRC_RESULT returns CRC with its 16 bits reversed, and changes nothing but
what the host has been given. -/
def Obligations.CrcResultReadsReflectedCrc : Prop :=
  ∀ (s : State) (ts : List Input), s.busy = false → s.inputs = .host (.regRead 5) :: ts →
    ∃ v : Lane, step s = .next { s with inputs := ts, reply := some (.reg v) } ∧
      ∀ j, v.getLsbD j = (decide (j < 16) && s.crc.getLsbD (15 - j))

/-- R59, R100: while BUSY = 0, a host write to a BUF address in BUF is what is read there afterwards, as written, and
leaves every other byte; at an address beyond BUF it changes nothing but the turn taken, and a read there gives 0. -/
def Obligations.BufWriteReadsBack : Prop :=
  ∀ (s : State) (a : Word) (b : Byte) (ts : List Input), s.busy = false →
    (s.inputs = .host (.bufWrite a b) :: ts → a.toNat < 65540 →
      ∃ t, step s = .next t ∧ t = { s with inputs := ts, buf := t.buf } ∧
        t.bufByte a.toNat = b ∧ t.written a.toNat = true ∧
        ∀ k, k ≠ a.toNat → t.bufByte k = s.bufByte k ∧ t.written k = s.written k) ∧
    (s.inputs = .host (.bufWrite a b) :: ts → 65540 ≤ a.toNat → step s = .next { s with inputs := ts }) ∧
    (s.inputs = .host (.bufRead a) :: ts →
      step s = .next { s with
        inputs := ts, reply := some (.byte (if a.toNat < 65540 then s.bufByte a.toNat else 0)) })

/-! ## Reset -/

/-- R230, R233: after a reset, of either kind and whatever was pending, every register number reads 0, no command is
pending, and the fault is as it was (at a power-on, by log entry 12). -/
def Obligations.ResetClearsEveryRegister : Prop :=
  ∀ (s : State) (x : Input) (ts : List Input), (x = .reset ∨ x = .powerOn) → s.inputs = x :: ts →
    ∃ t, step s = .next t ∧ (∀ n : BitVec 8, t.regValue n = 0) ∧ t.busy = false ∧ t.fault = s.fault

/-- R231, R232: a reset that is not a power-on leaves every byte of BUF, and whether it is written, as it was, but for
the write range of a pending, undisturbed command (log entries 5, 7): those bytes become unwritten. A word that stands
for no command has no write range. A power-on leaves no byte written. -/
def Obligations.ResetKeepsBufButAbandonedRange : Prop :=
  ∀ (s : State) (ts : List Input),
    (s.inputs = .reset :: ts → ∃ t, step s = .next t ∧
      (s.busy = false → ∀ a, t.bufByte a = s.bufByte a ∧ t.written a = s.written a) ∧
      (s.busy = true → s.disturbed = false → ∀ i, decode s.cmd = .ok i →
        (∀ a, s.addr.toNat ≤ a → a < s.addr.toNat + writeLength i s →
          s.addr.toNat + writeLength i s ≤ 65540 → t.written a = false) ∧
        ∀ a, a < s.addr.toNat ∨ s.addr.toNat + writeLength i s ≤ a ∨ 65540 < s.addr.toNat + writeLength i s →
          t.bufByte a = s.bufByte a ∧ t.written a = s.written a) ∧
      (s.busy = true → s.disturbed = false → ∀ r, decode s.cmd = .error r →
        ∀ a, t.bufByte a = s.bufByte a ∧ t.written a = s.written a)) ∧
    (s.inputs = .powerOn :: ts → ∃ t, step s = .next t ∧ ∀ a, t.written a = false)

/-! ## The invariant -/

/-- R20, R25, R230: the reset state meets the invariant, and every register number reads 0 in it. -/
def Obligations.ResetStateMeetsInvariant : Prop :=
  State.reset.Inv ∧ ∀ n : BitVec 8, State.reset.regValue n = 0

/-- R25, R26, R27, R36, R200: every step keeps the invariant: BUF's canonical form, the legal values of STATUS, an
ERRCODE of at most 6, the zero ERRADDR, and an error shown exactly when there is one. For a command that a host write
has disturbed this is the model's choice (log entries 7, 8). -/
def Obligations.StepKeepsInvariant : Prop :=
  ∀ s t : State, s.Inv → step s = .next t → t.Inv

/-! ## A command that a host write has disturbed -/

/-- R25, R104, R200: at the engine's turn, a pending command that a host write has disturbed (R240) completes in one of
the two forms of R104: success, or one of the six error codes of R200, with error address 0 for IllegalCommand. CMD,
ADDR, LEN and the fault are as they were. That it completes, and so, is the model's choice (log entry 7). -/
def Obligations.DisturbedCommandCompletes : Prop :=
  ∀ s : State, s.engineNext → s.busy = true → s.disturbed = true →
    ∃ t, step s = .next t ∧
      ((t.status = 0x2 ∧ t.errcode = 0 ∧ t.erraddr = 0) ∨
        (t.status = 0x6 ∧ 1 ≤ t.errcode.toNat ∧ t.errcode.toNat ≤ 6 ∧ (t.errcode = 0x06 → t.erraddr = 0))) ∧
      t.cmd = s.cmd ∧ t.addr = s.addr ∧ t.len = s.len ∧ t.fault = s.fault ∧ t.disturbed = false ∧
      t.inputs = s.inputs.tail ∧ t.reply = s.reply
end

