-- ==== Sys2Proof/Laws/Bits.lean ====
section
/-!
SUPPORT. What reflection does, bit by bit (41_crc16.md R120).
-/

namespace Sys2Proof.Machine

theorem reflectLoop_getLsbD {n : Nat} (v : BitVec n) (w k j : Nat) (hw : w ≤ n) (hk : k ≤ w) :
    (reflectLoop v w k).getLsbD j = (decide (j < w) && decide (w - 1 - j < k) && v.getLsbD (w - 1 - j)) := by
  induction k with
  | zero => simp [reflectLoop]
  | succ k ih =>
    have hb : (1#n <<< (w - 1 - k)).getLsbD j = decide (j = w - 1 - k) := by
      rw [BitVec.getLsbD_shiftLeft, BitVec.getLsbD_one]
      by_cases h : j = w - 1 - k
      · subst h
        simp
        omega
      · simp [h]
        omega
    rw [reflectLoop]
    split
    · rename_i h
      rw [BitVec.getLsbD_or, ih (by omega), hb]
      by_cases hj : j = w - 1 - k
      · subst hj
        have h1 : w - 1 - (w - 1 - k) = k := by omega
        have h2 : w - 1 - k < w := by omega
        simp [h, h1, h2]
      · by_cases h1 : j < w
        · have h2 : (w - 1 - j < k + 1) ↔ (w - 1 - j < k) := by omega
          simp [h1, h2, hj]
        · simp [h1, hj]
    · rename_i h
      rw [ih (by omega)]
      by_cases h1 : w - 1 - j = k
      · have h2 : v.getLsbD (w - 1 - j) = false := by
          rw [h1]
          simpa using h
        simp [h2]
      · have h2 : (w - 1 - j < k + 1) ↔ (w - 1 - j < k) := by omega
        simp only [h2]

/-- "Bit `i` of the result is bit `w-1-i` of `v`", and the bits at and above `w` are 0 (R120). -/
theorem reflect_getLsbD {n : Nat} (v : BitVec n) (w j : Nat) (hw : w ≤ n) :
    (reflect v w).getLsbD j = (decide (j < w) && v.getLsbD (w - 1 - j)) := by
  rw [reflect, reflectLoop_getLsbD v w w j hw (le_refl _)]
  by_cases h : j < w
  · have h1 : w - 1 - j < w := by omega
    simp [h, h1]
  · simp [h]

end Sys2Proof.Machine
end

