-- ==== Sys2Proof/Laws/Memory.lean ====
section
/-!
SUPPORT. What the operations over BUF do: a read after a write, a write elsewhere, and the canonical form, which every
operation keeps.
-/

namespace Sys2Proof.Machine

/-! ### One byte -/

theorem Memory.lookup_store_same (m : List Host.Cell) (a : Nat) (b : Byte) :
    Memory.lookup (Memory.store m a b) a = some b := by
  induction m with
  | nil => simp [Memory.store, Memory.lookup]
  | cons c m ih =>
    simp only [Memory.store]
    split
    · simp [Memory.lookup]
    · split
      · simp [Memory.lookup]
      · rename_i h
        simp [Memory.lookup, Ne.symm h, ih]

theorem Memory.lookup_store_ne (m : List Host.Cell) {a k : Nat} (b : Byte) (h : k ≠ a) :
    Memory.lookup (Memory.store m a b) k = Memory.lookup m k := by
  induction m with
  | nil => simp [Memory.store, Memory.lookup, Ne.symm h]
  | cons c m ih =>
    simp only [Memory.store]
    split
    · simp [Memory.lookup, Ne.symm h]
    · split
      · rename_i hac
        simp [Memory.lookup, Ne.symm h, ← hac]
      · simp [Memory.lookup, ih]

theorem Memory.mem_store {m : List Host.Cell} {a : Nat} {b : Byte} {c : Host.Cell}
    (h : c ∈ Memory.store m a b) : c = (a, b) ∨ c ∈ m := by
  induction m with
  | nil => simpa [Memory.store] using h
  | cons d m ih =>
    simp only [Memory.store] at h
    split at h
    · simpa using h
    · split at h
      · simp only [List.mem_cons] at h ⊢
        tauto
      · simp only [List.mem_cons] at h ⊢
        rcases h with h | h
        · exact .inr (.inl h)
        · rcases ih h with h | h
          · exact .inl h
          · exact .inr (.inr h)

theorem Memory.wf_store {m : List Host.Cell} {a : Nat} (b : Byte) (hm : Memory.wf m)
    (ha : a < Config.bufBytes) : Memory.wf (Memory.store m a b) := by
  refine ⟨?_, fun c hc => ?_⟩
  · have hp := hm.1
    clear hm
    induction m with
    | nil => simp [Memory.store]
    | cons d m ih =>
      rw [List.pairwise_cons] at hp
      simp only [Memory.store]
      split
      · rename_i hlt
        refine List.pairwise_cons.2 ⟨fun c hc => ?_, List.pairwise_cons.2 hp⟩
        rcases List.mem_cons.1 hc with rfl | hc
        · exact hlt
        · exact lt_trans hlt (hp.1 c hc)
      · split
        · rename_i heq
          exact List.pairwise_cons.2 ⟨fun c hc => heq ▸ hp.1 c hc, hp.2⟩
        · rename_i hnlt hne
          refine List.pairwise_cons.2 ⟨fun c hc => ?_, ih hp.2⟩
          rcases Memory.mem_store hc with rfl | hc
          · show d.1 < a
            omega
          · exact hp.1 c hc
  · rcases Memory.mem_store hc with rfl | hc
    · exact ha
    · exact hm.2 c hc

/-! ### A run of bytes -/

theorem Memory.lookup_storeBytes_outside (bs : List Byte) (m : List Host.Cell) {a k : Nat}
    (h : k < a ∨ a + bs.length ≤ k) :
    Memory.lookup (Memory.storeBytes m a bs) k = Memory.lookup m k := by
  induction bs generalizing m a with
  | nil => rfl
  | cons b bs ih =>
    rw [List.length_cons] at h
    rw [Memory.storeBytes, ih _ (by omega), Memory.lookup_store_ne _ _ (by omega)]

theorem Memory.lookup_storeBytes_inside (bs : List Byte) (m : List Host.Cell) (a : Nat) {k : Nat}
    (h : k < bs.length) :
    Memory.lookup (Memory.storeBytes m a bs) (a + k) = some bs[k] := by
  induction bs generalizing m a k with
  | nil => exact absurd h (by simp)
  | cons b bs ih =>
    rw [Memory.storeBytes]
    cases k with
    | zero =>
      show Memory.lookup (Memory.storeBytes (Memory.store m a b) (a + 1) bs) a = some b
      rw [Memory.lookup_storeBytes_outside _ _ (by omega), Memory.lookup_store_same]
    | succ k =>
      rw [List.length_cons] at h
      have := ih (Memory.store m a b) (a + 1) (k := k) (by omega)
      rw [show a + 1 + k = a + (k + 1) by omega] at this
      simpa using this

theorem Memory.wf_storeBytes {bs : List Byte} {m : List Host.Cell} {a : Nat} (hm : Memory.wf m)
    (ha : a + bs.length ≤ Config.bufBytes) : Memory.wf (Memory.storeBytes m a bs) := by
  induction bs generalizing m a with
  | nil => exact hm
  | cons b bs ih =>
    rw [List.length_cons] at ha
    exact ih (Memory.wf_store b hm (by omega)) (by omega)

/-! ### Forgetting a span -/

theorem inSpan_iff (sp : Span) (a : Nat) : inSpan sp a = true ↔ sp.start ≤ a ∧ a < sp.start + sp.len := by
  simp [inSpan]

theorem Memory.lookup_forget (m : List Host.Cell) (sp : Span) (k : Nat) :
    Memory.lookup (Memory.forget m sp) k = if inSpan sp k then none else Memory.lookup m k := by
  induction m with
  | nil => simp [Memory.forget, Memory.lookup]
  | cons c m ih =>
    rw [Memory.forget] at ih ⊢
    rw [List.filter_cons]
    by_cases hc : inSpan sp c.1
    · by_cases hk : c.1 = k
      · subst hk
        simp [hc, ih]
      · simp [hc, ih, Memory.lookup, hk]
    · by_cases hk : c.1 = k
      · subst hk
        simp [hc, Memory.lookup]
      · simp [hc, ih, Memory.lookup, hk]

theorem Memory.wf_forget {m : List Host.Cell} (sp : Span) (hm : Memory.wf m) :
    Memory.wf (Memory.forget m sp) :=
  ⟨hm.1.filter _, fun c hc => hm.2 c (List.mem_of_mem_filter hc)⟩

theorem Memory.wf_nil : Memory.wf [] := ⟨.nil, by simp⟩

theorem Memory.wf_reset : Memory.wf State.reset.buf := Memory.wf_nil

/-! ### BUF on the state -/

theorem State.bufByte_memWrite_inside (s : State) (a : Nat) (bs : List Byte) {k : Nat} (h : k < bs.length) :
    (s.memWrite a bs).bufByte (a + k) = bs[k] := by
  simp [State.bufByte, State.memWrite, Memory.lookup_storeBytes_inside bs s.buf a h]

theorem State.bufByte_memWrite_outside (s : State) {a k : Nat} (bs : List Byte)
    (h : k < a ∨ a + bs.length ≤ k) : (s.memWrite a bs).bufByte k = s.bufByte k := by
  simp [State.bufByte, State.memWrite, Memory.lookup_storeBytes_outside bs s.buf h, State.unlistedByte]

theorem State.written_memWrite_inside (s : State) (a : Nat) (bs : List Byte) {k : Nat} (h : k < bs.length) :
    (s.memWrite a bs).written (a + k) = true := by
  simp [State.written, State.memWrite, Memory.lookup_storeBytes_inside bs s.buf a h]

theorem State.written_memWrite_outside (s : State) {a k : Nat} (bs : List Byte)
    (h : k < a ∨ a + bs.length ≤ k) : (s.memWrite a bs).written k = s.written k := by
  simp [State.written, State.memWrite, Memory.lookup_storeBytes_outside bs s.buf h]

/-- BUF's reads depend on the written bytes, the power-on number and the abandoned spans alone. -/
theorem State.bufByte_congr {s t : State} (hb : t.buf = s.buf) (hp : t.powerOns = s.powerOns)
    (hs : t.spoiled = s.spoiled) (a : Nat) : t.bufByte a = s.bufByte a := by
  simp [State.bufByte, State.unlistedByte, hb, hp, hs]

theorem State.written_congr {s t : State} (hb : t.buf = s.buf) (a : Nat) : t.written a = s.written a := by
  simp [State.written, hb]

theorem State.memRead_length (s : State) (a n : Nat) : (s.memRead a n).length = n := by
  simp [State.memRead]

theorem State.getElem_memRead (s : State) (a n : Nat) {k : Nat} (h : k < (s.memRead a n).length) :
    (s.memRead a n)[k] = s.bufByte (a + k) := by
  simp [State.memRead]

theorem State.memRead_append (s : State) (a m n : Nat) :
    s.memRead a (m + n) = s.memRead a m ++ s.memRead (a + m) n := by
  simp [State.memRead, ← List.map_append, List.range'_append_1]

theorem State.memRead_memWrite (s : State) (a : Nat) (bs : List Byte) :
    (s.memWrite a bs).memRead a bs.length = bs := by
  apply List.ext_getElem (State.memRead_length _ _ _)
  intro k _ h
  rw [State.getElem_memRead, State.bufByte_memWrite_inside s a bs h]

theorem State.memRead_congr {s t : State} {a n : Nat}
    (h : ∀ k, k < n → t.bufByte (a + k) = s.bufByte (a + k)) : t.memRead a n = s.memRead a n := by
  apply List.ext_getElem (by simp [State.memRead_length])
  intro k h1 h2
  rw [State.getElem_memRead, State.getElem_memRead, h k (by simpa [State.memRead_length] using h1)]

theorem State.allWritten_iff (s : State) (a n : Nat) :
    s.allWritten a n = true ↔ ∀ k, k < n → s.written (a + k) = true := by
  simp only [State.allWritten, List.all_eq_true, List.mem_range'_1]
  constructor
  · intro h k hk
    exact h (a + k) (by omega)
  · rintro h x ⟨h1, h2⟩
    have := h (x - a) (by omega)
    rwa [show a + (x - a) = x by omega] at this

theorem State.allWritten_congr {s t : State} {a n : Nat}
    (h : ∀ k, k < n → t.written (a + k) = s.written (a + k)) : t.allWritten a n = s.allWritten a n := by
  rw [Bool.eq_iff_iff, State.allWritten_iff, State.allWritten_iff]
  exact ⟨fun g k hk => (h k hk) ▸ g k hk, fun g k hk => (h k hk).symm ▸ g k hk⟩

end Sys2Proof.Machine
end

