-- ==== Sys2Proof/Laws/State.lean ====
section
/-!
SUPPORT. Each named update of the state, field by field, so that no proof unfolds a record update.
-/

namespace Sys2Proof.Machine

/-! ### `memWrite`: MemWrite on the state changes BUF alone (R10). -/

@[simp] theorem State.memWrite_cmd (s : State) (a : Nat) (bs : List Byte) :
    (s.memWrite a bs).cmd = s.cmd := rfl
@[simp] theorem State.memWrite_status (s : State) (a : Nat) (bs : List Byte) :
    (s.memWrite a bs).status = s.status := rfl
@[simp] theorem State.memWrite_errcode (s : State) (a : Nat) (bs : List Byte) :
    (s.memWrite a bs).errcode = s.errcode := rfl
@[simp] theorem State.memWrite_erraddr (s : State) (a : Nat) (bs : List Byte) :
    (s.memWrite a bs).erraddr = s.erraddr := rfl
@[simp] theorem State.memWrite_crc (s : State) (a : Nat) (bs : List Byte) :
    (s.memWrite a bs).crc = s.crc := rfl
@[simp] theorem State.memWrite_val (s : State) (a : Nat) (bs : List Byte) :
    (s.memWrite a bs).val = s.val := rfl
@[simp] theorem State.memWrite_addr (s : State) (a : Nat) (bs : List Byte) :
    (s.memWrite a bs).addr = s.addr := rfl
@[simp] theorem State.memWrite_len (s : State) (a : Nat) (bs : List Byte) :
    (s.memWrite a bs).len = s.len := rfl
@[simp] theorem State.memWrite_cnt (s : State) (a : Nat) (bs : List Byte) :
    (s.memWrite a bs).cnt = s.cnt := rfl
@[simp] theorem State.memWrite_hcrc (s : State) (a : Nat) (bs : List Byte) :
    (s.memWrite a bs).hcrc = s.hcrc := rfl
@[simp] theorem State.memWrite_hlen (s : State) (a : Nat) (bs : List Byte) :
    (s.memWrite a bs).hlen = s.hlen := rfl
@[simp] theorem State.memWrite_rtype (s : State) (a : Nat) (bs : List Byte) :
    (s.memWrite a bs).rtype = s.rtype := rfl
@[simp] theorem State.memWrite_uuid (s : State) (a : Nat) (bs : List Byte) :
    (s.memWrite a bs).uuid = s.uuid := rfl
@[simp] theorem State.memWrite_unk1 (s : State) (a : Nat) (bs : List Byte) :
    (s.memWrite a bs).unk1 = s.unk1 := rfl
@[simp] theorem State.memWrite_unk2 (s : State) (a : Nat) (bs : List Byte) :
    (s.memWrite a bs).unk2 = s.unk2 := rfl
@[simp] theorem State.memWrite_psize (s : State) (a : Nat) (bs : List Byte) :
    (s.memWrite a bs).psize = s.psize := rfl
@[simp] theorem State.memWrite_pcrc (s : State) (a : Nat) (bs : List Byte) :
    (s.memWrite a bs).pcrc = s.pcrc := rfl
@[simp] theorem State.memWrite_buf (s : State) (a : Nat) (bs : List Byte) :
    (s.memWrite a bs).buf = Memory.storeBytes s.buf a bs := rfl
@[simp] theorem State.memWrite_fault (s : State) (a : Nat) (bs : List Byte) :
    (s.memWrite a bs).fault = s.fault := rfl
@[simp] theorem State.memWrite_spoiled (s : State) (a : Nat) (bs : List Byte) :
    (s.memWrite a bs).spoiled = s.spoiled := rfl
@[simp] theorem State.memWrite_powerOns (s : State) (a : Nat) (bs : List Byte) :
    (s.memWrite a bs).powerOns = s.powerOns := rfl
@[simp] theorem State.memWrite_draws (s : State) (a : Nat) (bs : List Byte) :
    (s.memWrite a bs).draws = s.draws := rfl
@[simp] theorem State.memWrite_disturbed (s : State) (a : Nat) (bs : List Byte) :
    (s.memWrite a bs).disturbed = s.disturbed := rfl
@[simp] theorem State.memWrite_inputs (s : State) (a : Nat) (bs : List Byte) :
    (s.memWrite a bs).inputs = s.inputs := rfl
@[simp] theorem State.memWrite_reply (s : State) (a : Nat) (bs : List Byte) :
    (s.memWrite a bs).reply = s.reply := rfl

/-! ### `spoil`: Making a span unspecified changes BUF and the abandoned spans (R232). -/

@[simp] theorem State.spoil_cmd (s : State) (sp : Span) :
    (s.spoil sp).cmd = s.cmd := rfl
@[simp] theorem State.spoil_status (s : State) (sp : Span) :
    (s.spoil sp).status = s.status := rfl
@[simp] theorem State.spoil_errcode (s : State) (sp : Span) :
    (s.spoil sp).errcode = s.errcode := rfl
@[simp] theorem State.spoil_erraddr (s : State) (sp : Span) :
    (s.spoil sp).erraddr = s.erraddr := rfl
@[simp] theorem State.spoil_crc (s : State) (sp : Span) :
    (s.spoil sp).crc = s.crc := rfl
@[simp] theorem State.spoil_val (s : State) (sp : Span) :
    (s.spoil sp).val = s.val := rfl
@[simp] theorem State.spoil_addr (s : State) (sp : Span) :
    (s.spoil sp).addr = s.addr := rfl
@[simp] theorem State.spoil_len (s : State) (sp : Span) :
    (s.spoil sp).len = s.len := rfl
@[simp] theorem State.spoil_cnt (s : State) (sp : Span) :
    (s.spoil sp).cnt = s.cnt := rfl
@[simp] theorem State.spoil_hcrc (s : State) (sp : Span) :
    (s.spoil sp).hcrc = s.hcrc := rfl
@[simp] theorem State.spoil_hlen (s : State) (sp : Span) :
    (s.spoil sp).hlen = s.hlen := rfl
@[simp] theorem State.spoil_rtype (s : State) (sp : Span) :
    (s.spoil sp).rtype = s.rtype := rfl
@[simp] theorem State.spoil_uuid (s : State) (sp : Span) :
    (s.spoil sp).uuid = s.uuid := rfl
@[simp] theorem State.spoil_unk1 (s : State) (sp : Span) :
    (s.spoil sp).unk1 = s.unk1 := rfl
@[simp] theorem State.spoil_unk2 (s : State) (sp : Span) :
    (s.spoil sp).unk2 = s.unk2 := rfl
@[simp] theorem State.spoil_psize (s : State) (sp : Span) :
    (s.spoil sp).psize = s.psize := rfl
@[simp] theorem State.spoil_pcrc (s : State) (sp : Span) :
    (s.spoil sp).pcrc = s.pcrc := rfl
@[simp] theorem State.spoil_buf (s : State) (sp : Span) :
    (s.spoil sp).buf = Memory.forget s.buf sp := rfl
@[simp] theorem State.spoil_fault (s : State) (sp : Span) :
    (s.spoil sp).fault = s.fault := rfl
@[simp] theorem State.spoil_spoiled (s : State) (sp : Span) :
    (s.spoil sp).spoiled = sp :: s.spoiled := rfl
@[simp] theorem State.spoil_powerOns (s : State) (sp : Span) :
    (s.spoil sp).powerOns = s.powerOns := rfl
@[simp] theorem State.spoil_draws (s : State) (sp : Span) :
    (s.spoil sp).draws = s.draws := rfl
@[simp] theorem State.spoil_disturbed (s : State) (sp : Span) :
    (s.spoil sp).disturbed = s.disturbed := rfl
@[simp] theorem State.spoil_inputs (s : State) (sp : Span) :
    (s.spoil sp).inputs = s.inputs := rfl
@[simp] theorem State.spoil_reply (s : State) (sp : Span) :
    (s.spoil sp).reply = s.reply := rfl

/-! ### `noteFault`: Noting a fault changes `fault` alone (R243). -/

@[simp] theorem State.noteFault_cmd (s : State) (r : Fault) :
    (s.noteFault r).cmd = s.cmd := rfl
@[simp] theorem State.noteFault_status (s : State) (r : Fault) :
    (s.noteFault r).status = s.status := rfl
@[simp] theorem State.noteFault_errcode (s : State) (r : Fault) :
    (s.noteFault r).errcode = s.errcode := rfl
@[simp] theorem State.noteFault_erraddr (s : State) (r : Fault) :
    (s.noteFault r).erraddr = s.erraddr := rfl
@[simp] theorem State.noteFault_crc (s : State) (r : Fault) :
    (s.noteFault r).crc = s.crc := rfl
@[simp] theorem State.noteFault_val (s : State) (r : Fault) :
    (s.noteFault r).val = s.val := rfl
@[simp] theorem State.noteFault_addr (s : State) (r : Fault) :
    (s.noteFault r).addr = s.addr := rfl
@[simp] theorem State.noteFault_len (s : State) (r : Fault) :
    (s.noteFault r).len = s.len := rfl
@[simp] theorem State.noteFault_cnt (s : State) (r : Fault) :
    (s.noteFault r).cnt = s.cnt := rfl
@[simp] theorem State.noteFault_hcrc (s : State) (r : Fault) :
    (s.noteFault r).hcrc = s.hcrc := rfl
@[simp] theorem State.noteFault_hlen (s : State) (r : Fault) :
    (s.noteFault r).hlen = s.hlen := rfl
@[simp] theorem State.noteFault_rtype (s : State) (r : Fault) :
    (s.noteFault r).rtype = s.rtype := rfl
@[simp] theorem State.noteFault_uuid (s : State) (r : Fault) :
    (s.noteFault r).uuid = s.uuid := rfl
@[simp] theorem State.noteFault_unk1 (s : State) (r : Fault) :
    (s.noteFault r).unk1 = s.unk1 := rfl
@[simp] theorem State.noteFault_unk2 (s : State) (r : Fault) :
    (s.noteFault r).unk2 = s.unk2 := rfl
@[simp] theorem State.noteFault_psize (s : State) (r : Fault) :
    (s.noteFault r).psize = s.psize := rfl
@[simp] theorem State.noteFault_pcrc (s : State) (r : Fault) :
    (s.noteFault r).pcrc = s.pcrc := rfl
@[simp] theorem State.noteFault_buf (s : State) (r : Fault) :
    (s.noteFault r).buf = s.buf := rfl
@[simp] theorem State.noteFault_fault (s : State) (r : Fault) :
    (s.noteFault r).fault = firstFault s.fault r := rfl
@[simp] theorem State.noteFault_spoiled (s : State) (r : Fault) :
    (s.noteFault r).spoiled = s.spoiled := rfl
@[simp] theorem State.noteFault_powerOns (s : State) (r : Fault) :
    (s.noteFault r).powerOns = s.powerOns := rfl
@[simp] theorem State.noteFault_draws (s : State) (r : Fault) :
    (s.noteFault r).draws = s.draws := rfl
@[simp] theorem State.noteFault_disturbed (s : State) (r : Fault) :
    (s.noteFault r).disturbed = s.disturbed := rfl
@[simp] theorem State.noteFault_inputs (s : State) (r : Fault) :
    (s.noteFault r).inputs = s.inputs := rfl
@[simp] theorem State.noteFault_reply (s : State) (r : Fault) :
    (s.noteFault r).reply = s.reply := rfl

/-! ### `setFault`: the fault alone (R243). -/

@[simp] theorem State.setFault_cmd (s : State) (f : Option Fault) :
    (s.setFault f).cmd = s.cmd := rfl
@[simp] theorem State.setFault_status (s : State) (f : Option Fault) :
    (s.setFault f).status = s.status := rfl
@[simp] theorem State.setFault_errcode (s : State) (f : Option Fault) :
    (s.setFault f).errcode = s.errcode := rfl
@[simp] theorem State.setFault_erraddr (s : State) (f : Option Fault) :
    (s.setFault f).erraddr = s.erraddr := rfl
@[simp] theorem State.setFault_crc (s : State) (f : Option Fault) :
    (s.setFault f).crc = s.crc := rfl
@[simp] theorem State.setFault_val (s : State) (f : Option Fault) :
    (s.setFault f).val = s.val := rfl
@[simp] theorem State.setFault_addr (s : State) (f : Option Fault) :
    (s.setFault f).addr = s.addr := rfl
@[simp] theorem State.setFault_len (s : State) (f : Option Fault) :
    (s.setFault f).len = s.len := rfl
@[simp] theorem State.setFault_cnt (s : State) (f : Option Fault) :
    (s.setFault f).cnt = s.cnt := rfl
@[simp] theorem State.setFault_hcrc (s : State) (f : Option Fault) :
    (s.setFault f).hcrc = s.hcrc := rfl
@[simp] theorem State.setFault_hlen (s : State) (f : Option Fault) :
    (s.setFault f).hlen = s.hlen := rfl
@[simp] theorem State.setFault_rtype (s : State) (f : Option Fault) :
    (s.setFault f).rtype = s.rtype := rfl
@[simp] theorem State.setFault_uuid (s : State) (f : Option Fault) :
    (s.setFault f).uuid = s.uuid := rfl
@[simp] theorem State.setFault_unk1 (s : State) (f : Option Fault) :
    (s.setFault f).unk1 = s.unk1 := rfl
@[simp] theorem State.setFault_unk2 (s : State) (f : Option Fault) :
    (s.setFault f).unk2 = s.unk2 := rfl
@[simp] theorem State.setFault_psize (s : State) (f : Option Fault) :
    (s.setFault f).psize = s.psize := rfl
@[simp] theorem State.setFault_pcrc (s : State) (f : Option Fault) :
    (s.setFault f).pcrc = s.pcrc := rfl
@[simp] theorem State.setFault_buf (s : State) (f : Option Fault) :
    (s.setFault f).buf = s.buf := rfl
@[simp] theorem State.setFault_fault (s : State) (f : Option Fault) :
    (s.setFault f).fault = f := rfl
@[simp] theorem State.setFault_spoiled (s : State) (f : Option Fault) :
    (s.setFault f).spoiled = s.spoiled := rfl
@[simp] theorem State.setFault_powerOns (s : State) (f : Option Fault) :
    (s.setFault f).powerOns = s.powerOns := rfl
@[simp] theorem State.setFault_draws (s : State) (f : Option Fault) :
    (s.setFault f).draws = s.draws := rfl
@[simp] theorem State.setFault_disturbed (s : State) (f : Option Fault) :
    (s.setFault f).disturbed = s.disturbed := rfl
@[simp] theorem State.setFault_inputs (s : State) (f : Option Fault) :
    (s.setFault f).inputs = s.inputs := rfl
@[simp] theorem State.setFault_reply (s : State) (f : Option Fault) :
    (s.setFault f).reply = s.reply := rfl

/-! ### `succeed`: A commit reports success in STATUS, ERRCODE and ERRADDR alone (R104). -/

@[simp] theorem State.succeed_cmd (s : State) :
    s.succeed.cmd = s.cmd := rfl
@[simp] theorem State.succeed_status (s : State) :
    s.succeed.status = statusDone := rfl
@[simp] theorem State.succeed_errcode (s : State) :
    s.succeed.errcode = 0 := rfl
@[simp] theorem State.succeed_erraddr (s : State) :
    s.succeed.erraddr = 0 := rfl
@[simp] theorem State.succeed_crc (s : State) :
    s.succeed.crc = s.crc := rfl
@[simp] theorem State.succeed_val (s : State) :
    s.succeed.val = s.val := rfl
@[simp] theorem State.succeed_addr (s : State) :
    s.succeed.addr = s.addr := rfl
@[simp] theorem State.succeed_len (s : State) :
    s.succeed.len = s.len := rfl
@[simp] theorem State.succeed_cnt (s : State) :
    s.succeed.cnt = s.cnt := rfl
@[simp] theorem State.succeed_hcrc (s : State) :
    s.succeed.hcrc = s.hcrc := rfl
@[simp] theorem State.succeed_hlen (s : State) :
    s.succeed.hlen = s.hlen := rfl
@[simp] theorem State.succeed_rtype (s : State) :
    s.succeed.rtype = s.rtype := rfl
@[simp] theorem State.succeed_uuid (s : State) :
    s.succeed.uuid = s.uuid := rfl
@[simp] theorem State.succeed_unk1 (s : State) :
    s.succeed.unk1 = s.unk1 := rfl
@[simp] theorem State.succeed_unk2 (s : State) :
    s.succeed.unk2 = s.unk2 := rfl
@[simp] theorem State.succeed_psize (s : State) :
    s.succeed.psize = s.psize := rfl
@[simp] theorem State.succeed_pcrc (s : State) :
    s.succeed.pcrc = s.pcrc := rfl
@[simp] theorem State.succeed_buf (s : State) :
    s.succeed.buf = s.buf := rfl
@[simp] theorem State.succeed_fault (s : State) :
    s.succeed.fault = s.fault := rfl
@[simp] theorem State.succeed_spoiled (s : State) :
    s.succeed.spoiled = s.spoiled := rfl
@[simp] theorem State.succeed_powerOns (s : State) :
    s.succeed.powerOns = s.powerOns := rfl
@[simp] theorem State.succeed_draws (s : State) :
    s.succeed.draws = s.draws := rfl
@[simp] theorem State.succeed_disturbed (s : State) :
    s.succeed.disturbed = s.disturbed := rfl
@[simp] theorem State.succeed_inputs (s : State) :
    s.succeed.inputs = s.inputs := rfl
@[simp] theorem State.succeed_reply (s : State) :
    s.succeed.reply = s.reply := rfl

/-! ### `report`: An error is reported in STATUS, ERRCODE and ERRADDR alone (R104, R203). -/

@[simp] theorem State.report_cmd (s : State) (k : ErrKind) (a : Nat) :
    (s.report k a).cmd = s.cmd := rfl
@[simp] theorem State.report_status (s : State) (k : ErrKind) (a : Nat) :
    (s.report k a).status = statusError := rfl
@[simp] theorem State.report_errcode (s : State) (k : ErrKind) (a : Nat) :
    (s.report k a).errcode = errCode k := rfl
@[simp] theorem State.report_erraddr (s : State) (k : ErrKind) (a : Nat) :
    (s.report k a).erraddr = BitVec.ofNat 32 a := rfl
@[simp] theorem State.report_crc (s : State) (k : ErrKind) (a : Nat) :
    (s.report k a).crc = s.crc := rfl
@[simp] theorem State.report_val (s : State) (k : ErrKind) (a : Nat) :
    (s.report k a).val = s.val := rfl
@[simp] theorem State.report_addr (s : State) (k : ErrKind) (a : Nat) :
    (s.report k a).addr = s.addr := rfl
@[simp] theorem State.report_len (s : State) (k : ErrKind) (a : Nat) :
    (s.report k a).len = s.len := rfl
@[simp] theorem State.report_cnt (s : State) (k : ErrKind) (a : Nat) :
    (s.report k a).cnt = s.cnt := rfl
@[simp] theorem State.report_hcrc (s : State) (k : ErrKind) (a : Nat) :
    (s.report k a).hcrc = s.hcrc := rfl
@[simp] theorem State.report_hlen (s : State) (k : ErrKind) (a : Nat) :
    (s.report k a).hlen = s.hlen := rfl
@[simp] theorem State.report_rtype (s : State) (k : ErrKind) (a : Nat) :
    (s.report k a).rtype = s.rtype := rfl
@[simp] theorem State.report_uuid (s : State) (k : ErrKind) (a : Nat) :
    (s.report k a).uuid = s.uuid := rfl
@[simp] theorem State.report_unk1 (s : State) (k : ErrKind) (a : Nat) :
    (s.report k a).unk1 = s.unk1 := rfl
@[simp] theorem State.report_unk2 (s : State) (k : ErrKind) (a : Nat) :
    (s.report k a).unk2 = s.unk2 := rfl
@[simp] theorem State.report_psize (s : State) (k : ErrKind) (a : Nat) :
    (s.report k a).psize = s.psize := rfl
@[simp] theorem State.report_pcrc (s : State) (k : ErrKind) (a : Nat) :
    (s.report k a).pcrc = s.pcrc := rfl
@[simp] theorem State.report_buf (s : State) (k : ErrKind) (a : Nat) :
    (s.report k a).buf = s.buf := rfl
@[simp] theorem State.report_fault (s : State) (k : ErrKind) (a : Nat) :
    (s.report k a).fault = s.fault := rfl
@[simp] theorem State.report_spoiled (s : State) (k : ErrKind) (a : Nat) :
    (s.report k a).spoiled = s.spoiled := rfl
@[simp] theorem State.report_powerOns (s : State) (k : ErrKind) (a : Nat) :
    (s.report k a).powerOns = s.powerOns := rfl
@[simp] theorem State.report_draws (s : State) (k : ErrKind) (a : Nat) :
    (s.report k a).draws = s.draws := rfl
@[simp] theorem State.report_disturbed (s : State) (k : ErrKind) (a : Nat) :
    (s.report k a).disturbed = s.disturbed := rfl
@[simp] theorem State.report_inputs (s : State) (k : ErrKind) (a : Nat) :
    (s.report k a).inputs = s.inputs := rfl
@[simp] theorem State.report_reply (s : State) (k : ErrKind) (a : Nat) :
    (s.report k a).reply = s.reply := rfl

/-! ### `setHeader`: The record registers are written together (R175). -/

@[simp] theorem State.setHeader_cmd (s : State) (h : Header) :
    (s.setHeader h).cmd = s.cmd := rfl
@[simp] theorem State.setHeader_status (s : State) (h : Header) :
    (s.setHeader h).status = s.status := rfl
@[simp] theorem State.setHeader_errcode (s : State) (h : Header) :
    (s.setHeader h).errcode = s.errcode := rfl
@[simp] theorem State.setHeader_erraddr (s : State) (h : Header) :
    (s.setHeader h).erraddr = s.erraddr := rfl
@[simp] theorem State.setHeader_crc (s : State) (h : Header) :
    (s.setHeader h).crc = s.crc := rfl
@[simp] theorem State.setHeader_val (s : State) (h : Header) :
    (s.setHeader h).val = s.val := rfl
@[simp] theorem State.setHeader_addr (s : State) (h : Header) :
    (s.setHeader h).addr = s.addr := rfl
@[simp] theorem State.setHeader_len (s : State) (h : Header) :
    (s.setHeader h).len = s.len := rfl
@[simp] theorem State.setHeader_cnt (s : State) (h : Header) :
    (s.setHeader h).cnt = s.cnt := rfl
@[simp] theorem State.setHeader_hcrc (s : State) (h : Header) :
    (s.setHeader h).hcrc = s.hcrc := rfl
@[simp] theorem State.setHeader_hlen (s : State) (h : Header) :
    (s.setHeader h).hlen = s.hlen := rfl
@[simp] theorem State.setHeader_rtype (s : State) (h : Header) :
    (s.setHeader h).rtype = h.rtype := rfl
@[simp] theorem State.setHeader_uuid (s : State) (h : Header) :
    (s.setHeader h).uuid = h.uuid := rfl
@[simp] theorem State.setHeader_unk1 (s : State) (h : Header) :
    (s.setHeader h).unk1 = h.unk1 := rfl
@[simp] theorem State.setHeader_unk2 (s : State) (h : Header) :
    (s.setHeader h).unk2 = h.unk2 := rfl
@[simp] theorem State.setHeader_psize (s : State) (h : Header) :
    (s.setHeader h).psize = h.psize := rfl
@[simp] theorem State.setHeader_pcrc (s : State) (h : Header) :
    (s.setHeader h).pcrc = h.pcrc := rfl
@[simp] theorem State.setHeader_buf (s : State) (h : Header) :
    (s.setHeader h).buf = s.buf := rfl
@[simp] theorem State.setHeader_fault (s : State) (h : Header) :
    (s.setHeader h).fault = s.fault := rfl
@[simp] theorem State.setHeader_spoiled (s : State) (h : Header) :
    (s.setHeader h).spoiled = s.spoiled := rfl
@[simp] theorem State.setHeader_powerOns (s : State) (h : Header) :
    (s.setHeader h).powerOns = s.powerOns := rfl
@[simp] theorem State.setHeader_draws (s : State) (h : Header) :
    (s.setHeader h).draws = s.draws := rfl
@[simp] theorem State.setHeader_disturbed (s : State) (h : Header) :
    (s.setHeader h).disturbed = s.disturbed := rfl
@[simp] theorem State.setHeader_inputs (s : State) (h : Header) :
    (s.setHeader h).inputs = s.inputs := rfl
@[simp] theorem State.setHeader_reply (s : State) (h : Header) :
    (s.setHeader h).reply = s.reply := rfl

/-! ### `accept`: Acceptance of a command writes CMD and STATUS (R101). -/

@[simp] theorem State.accept_cmd (s : State) (w : Word) :
    (s.accept w).cmd = w := rfl
@[simp] theorem State.accept_status (s : State) (w : Word) :
    (s.accept w).status = statusBusy := rfl
@[simp] theorem State.accept_errcode (s : State) (w : Word) :
    (s.accept w).errcode = s.errcode := rfl
@[simp] theorem State.accept_erraddr (s : State) (w : Word) :
    (s.accept w).erraddr = s.erraddr := rfl
@[simp] theorem State.accept_crc (s : State) (w : Word) :
    (s.accept w).crc = s.crc := rfl
@[simp] theorem State.accept_val (s : State) (w : Word) :
    (s.accept w).val = s.val := rfl
@[simp] theorem State.accept_addr (s : State) (w : Word) :
    (s.accept w).addr = s.addr := rfl
@[simp] theorem State.accept_len (s : State) (w : Word) :
    (s.accept w).len = s.len := rfl
@[simp] theorem State.accept_cnt (s : State) (w : Word) :
    (s.accept w).cnt = s.cnt := rfl
@[simp] theorem State.accept_hcrc (s : State) (w : Word) :
    (s.accept w).hcrc = s.hcrc := rfl
@[simp] theorem State.accept_hlen (s : State) (w : Word) :
    (s.accept w).hlen = s.hlen := rfl
@[simp] theorem State.accept_rtype (s : State) (w : Word) :
    (s.accept w).rtype = s.rtype := rfl
@[simp] theorem State.accept_uuid (s : State) (w : Word) :
    (s.accept w).uuid = s.uuid := rfl
@[simp] theorem State.accept_unk1 (s : State) (w : Word) :
    (s.accept w).unk1 = s.unk1 := rfl
@[simp] theorem State.accept_unk2 (s : State) (w : Word) :
    (s.accept w).unk2 = s.unk2 := rfl
@[simp] theorem State.accept_psize (s : State) (w : Word) :
    (s.accept w).psize = s.psize := rfl
@[simp] theorem State.accept_pcrc (s : State) (w : Word) :
    (s.accept w).pcrc = s.pcrc := rfl
@[simp] theorem State.accept_buf (s : State) (w : Word) :
    (s.accept w).buf = s.buf := rfl
@[simp] theorem State.accept_fault (s : State) (w : Word) :
    (s.accept w).fault = s.fault := rfl
@[simp] theorem State.accept_spoiled (s : State) (w : Word) :
    (s.accept w).spoiled = s.spoiled := rfl
@[simp] theorem State.accept_powerOns (s : State) (w : Word) :
    (s.accept w).powerOns = s.powerOns := rfl
@[simp] theorem State.accept_draws (s : State) (w : Word) :
    (s.accept w).draws = s.draws := rfl
@[simp] theorem State.accept_disturbed (s : State) (w : Word) :
    (s.accept w).disturbed = false := rfl
@[simp] theorem State.accept_inputs (s : State) (w : Word) :
    (s.accept w).inputs = s.inputs := rfl
@[simp] theorem State.accept_reply (s : State) (w : Word) :
    (s.accept w).reply = s.reply := rfl

/-! ### `disturb`: A host write while BUSY sets the fault and disturbs the pending command (R240). -/

@[simp] theorem State.disturb_cmd (s : State) :
    s.disturb.cmd = s.cmd := rfl
@[simp] theorem State.disturb_status (s : State) :
    s.disturb.status = s.status := rfl
@[simp] theorem State.disturb_errcode (s : State) :
    s.disturb.errcode = s.errcode := rfl
@[simp] theorem State.disturb_erraddr (s : State) :
    s.disturb.erraddr = s.erraddr := rfl
@[simp] theorem State.disturb_crc (s : State) :
    s.disturb.crc = s.crc := rfl
@[simp] theorem State.disturb_val (s : State) :
    s.disturb.val = s.val := rfl
@[simp] theorem State.disturb_addr (s : State) :
    s.disturb.addr = s.addr := rfl
@[simp] theorem State.disturb_len (s : State) :
    s.disturb.len = s.len := rfl
@[simp] theorem State.disturb_cnt (s : State) :
    s.disturb.cnt = s.cnt := rfl
@[simp] theorem State.disturb_hcrc (s : State) :
    s.disturb.hcrc = s.hcrc := rfl
@[simp] theorem State.disturb_hlen (s : State) :
    s.disturb.hlen = s.hlen := rfl
@[simp] theorem State.disturb_rtype (s : State) :
    s.disturb.rtype = s.rtype := rfl
@[simp] theorem State.disturb_uuid (s : State) :
    s.disturb.uuid = s.uuid := rfl
@[simp] theorem State.disturb_unk1 (s : State) :
    s.disturb.unk1 = s.unk1 := rfl
@[simp] theorem State.disturb_unk2 (s : State) :
    s.disturb.unk2 = s.unk2 := rfl
@[simp] theorem State.disturb_psize (s : State) :
    s.disturb.psize = s.psize := rfl
@[simp] theorem State.disturb_pcrc (s : State) :
    s.disturb.pcrc = s.pcrc := rfl
@[simp] theorem State.disturb_buf (s : State) :
    s.disturb.buf = s.buf := rfl
@[simp] theorem State.disturb_fault (s : State) :
    s.disturb.fault = firstFault s.fault .hostAccessWhileBusy := rfl
@[simp] theorem State.disturb_spoiled (s : State) :
    s.disturb.spoiled = s.spoiled := rfl
@[simp] theorem State.disturb_powerOns (s : State) :
    s.disturb.powerOns = s.powerOns := rfl
@[simp] theorem State.disturb_draws (s : State) :
    s.disturb.draws = s.draws := rfl
@[simp] theorem State.disturb_disturbed (s : State) :
    s.disturb.disturbed = true := rfl
@[simp] theorem State.disturb_inputs (s : State) :
    s.disturb.inputs = s.inputs := rfl
@[simp] theorem State.disturb_reply (s : State) :
    s.disturb.reply = s.reply := rfl

/-! ### `clearRegs`: reset clears every register and nothing else (R230). -/

@[simp] theorem State.clearRegs_cmd (s : State) :
    s.clearRegs.cmd = 0 := rfl
@[simp] theorem State.clearRegs_status (s : State) :
    s.clearRegs.status = 0 := rfl
@[simp] theorem State.clearRegs_errcode (s : State) :
    s.clearRegs.errcode = 0 := rfl
@[simp] theorem State.clearRegs_erraddr (s : State) :
    s.clearRegs.erraddr = 0 := rfl
@[simp] theorem State.clearRegs_crc (s : State) :
    s.clearRegs.crc = 0 := rfl
@[simp] theorem State.clearRegs_val (s : State) :
    s.clearRegs.val = 0 := rfl
@[simp] theorem State.clearRegs_addr (s : State) :
    s.clearRegs.addr = 0 := rfl
@[simp] theorem State.clearRegs_len (s : State) :
    s.clearRegs.len = 0 := rfl
@[simp] theorem State.clearRegs_cnt (s : State) :
    s.clearRegs.cnt = 0 := rfl
@[simp] theorem State.clearRegs_hcrc (s : State) :
    s.clearRegs.hcrc = 0 := rfl
@[simp] theorem State.clearRegs_hlen (s : State) :
    s.clearRegs.hlen = 0 := rfl
@[simp] theorem State.clearRegs_rtype (s : State) :
    s.clearRegs.rtype = 0 := rfl
@[simp] theorem State.clearRegs_uuid (s : State) :
    s.clearRegs.uuid = 0 := rfl
@[simp] theorem State.clearRegs_unk1 (s : State) :
    s.clearRegs.unk1 = 0 := rfl
@[simp] theorem State.clearRegs_unk2 (s : State) :
    s.clearRegs.unk2 = 0 := rfl
@[simp] theorem State.clearRegs_psize (s : State) :
    s.clearRegs.psize = 0 := rfl
@[simp] theorem State.clearRegs_pcrc (s : State) :
    s.clearRegs.pcrc = 0 := rfl
@[simp] theorem State.clearRegs_buf (s : State) :
    s.clearRegs.buf = s.buf := rfl
@[simp] theorem State.clearRegs_fault (s : State) :
    s.clearRegs.fault = s.fault := rfl
@[simp] theorem State.clearRegs_spoiled (s : State) :
    s.clearRegs.spoiled = s.spoiled := rfl
@[simp] theorem State.clearRegs_powerOns (s : State) :
    s.clearRegs.powerOns = s.powerOns := rfl
@[simp] theorem State.clearRegs_draws (s : State) :
    s.clearRegs.draws = s.draws := rfl
@[simp] theorem State.clearRegs_disturbed (s : State) :
    s.clearRegs.disturbed = false := rfl
@[simp] theorem State.clearRegs_inputs (s : State) :
    s.clearRegs.inputs = s.inputs := rfl
@[simp] theorem State.clearRegs_reply (s : State) :
    s.clearRegs.reply = s.reply := rfl

/-! ### `freeResults`: the registers that no command writes, and those of the completion, stay (R20). -/

@[simp] theorem State.freeResults_cmd (s : State) :
    s.freeResults.cmd = s.cmd := rfl
@[simp] theorem State.freeResults_status (s : State) :
    s.freeResults.status = s.status := rfl
@[simp] theorem State.freeResults_errcode (s : State) :
    s.freeResults.errcode = s.errcode := rfl
@[simp] theorem State.freeResults_erraddr (s : State) :
    s.freeResults.erraddr = s.erraddr := rfl
@[simp] theorem State.freeResults_addr (s : State) :
    s.freeResults.addr = s.addr := rfl
@[simp] theorem State.freeResults_len (s : State) :
    s.freeResults.len = s.len := rfl
@[simp] theorem State.freeResults_fault (s : State) :
    s.freeResults.fault = s.fault := rfl
@[simp] theorem State.freeResults_powerOns (s : State) :
    s.freeResults.powerOns = s.powerOns := rfl
@[simp] theorem State.freeResults_inputs (s : State) :
    s.freeResults.inputs = s.inputs := rfl
@[simp] theorem State.freeResults_reply (s : State) :
    s.freeResults.reply = s.reply := rfl
@[simp] theorem State.freeResults_disturbed (s : State) :
    s.freeResults.disturbed = false := rfl
@[simp] theorem State.freeResults_draws (s : State) :
    s.freeResults.draws = s.draws + 13 := rfl
@[simp] theorem State.freeResults_buf (s : State) :
    s.freeResults.buf = Memory.forget s.buf wholeBuf := rfl

/-! ### `completeDisturbed`: one of the two completions of R104, on `freeResults`. -/

/-- The two forms of a disturbed command's completion (R104, R200). -/
theorem State.completeDisturbed_cases (s : State) :
    s.completeDisturbed = s.freeResults.succeed ∨
      ∃ k a, s.completeDisturbed = s.freeResults.report k a ∧ (k = .illegalCommand → a = 0) := by
  unfold State.completeDisturbed
  split
  · exact .inl rfl
  · exact .inr ⟨_, _, rfl, fun h => if_pos h⟩

@[simp] theorem State.completeDisturbed_cmd (s : State) :
    s.completeDisturbed.cmd = s.cmd := by unfold State.completeDisturbed; split <;> rfl
@[simp] theorem State.completeDisturbed_addr (s : State) :
    s.completeDisturbed.addr = s.addr := by unfold State.completeDisturbed; split <;> rfl
@[simp] theorem State.completeDisturbed_len (s : State) :
    s.completeDisturbed.len = s.len := by unfold State.completeDisturbed; split <;> rfl
@[simp] theorem State.completeDisturbed_fault (s : State) :
    s.completeDisturbed.fault = s.fault := by unfold State.completeDisturbed; split <;> rfl
@[simp] theorem State.completeDisturbed_powerOns (s : State) :
    s.completeDisturbed.powerOns = s.powerOns := by unfold State.completeDisturbed; split <;> rfl
@[simp] theorem State.completeDisturbed_inputs (s : State) :
    s.completeDisturbed.inputs = s.inputs := by unfold State.completeDisturbed; split <;> rfl
@[simp] theorem State.completeDisturbed_reply (s : State) :
    s.completeDisturbed.reply = s.reply := by unfold State.completeDisturbed; split <;> rfl
@[simp] theorem State.completeDisturbed_disturbed (s : State) :
    s.completeDisturbed.disturbed = false := by unfold State.completeDisturbed; split <;> rfl
@[simp] theorem State.completeDisturbed_draws (s : State) :
    s.completeDisturbed.draws = s.draws + 13 := by unfold State.completeDisturbed; split <;> rfl
@[simp] theorem State.completeDisturbed_buf (s : State) :
    s.completeDisturbed.buf = Memory.forget s.buf wholeBuf := by unfold State.completeDisturbed; split <;> rfl

/-! ### `setReg`: a register write changes no other state than registers. -/

@[simp] theorem State.setReg_buf (s : State) (r : Reg) (v : Lane) :
    (s.setReg r v).buf = s.buf := by cases r <;> rfl
@[simp] theorem State.setReg_fault (s : State) (r : Reg) (v : Lane) :
    (s.setReg r v).fault = s.fault := by cases r <;> rfl
@[simp] theorem State.setReg_spoiled (s : State) (r : Reg) (v : Lane) :
    (s.setReg r v).spoiled = s.spoiled := by cases r <;> rfl
@[simp] theorem State.setReg_powerOns (s : State) (r : Reg) (v : Lane) :
    (s.setReg r v).powerOns = s.powerOns := by cases r <;> rfl
@[simp] theorem State.setReg_draws (s : State) (r : Reg) (v : Lane) :
    (s.setReg r v).draws = s.draws := by cases r <;> rfl
@[simp] theorem State.setReg_disturbed (s : State) (r : Reg) (v : Lane) :
    (s.setReg r v).disturbed = s.disturbed := by cases r <;> rfl
@[simp] theorem State.setReg_inputs (s : State) (r : Reg) (v : Lane) :
    (s.setReg r v).inputs = s.inputs := by cases r <;> rfl
@[simp] theorem State.setReg_reply (s : State) (r : Reg) (v : Lane) :
    (s.setReg r v).reply = s.reply := by cases r <;> rfl

end Sys2Proof.Machine
end

