-- ==== Sys2Proof/Laws/Ops.lean ====
section
/-!
SUPPORT. What each shared operation can do, said once: the range check, the completion of a command, a command as its
pseudocode completed, and a step as one turn.
-/

namespace Sys2Proof.Machine

/-! ### The range check (R54) -/

theorem inRange_iff (a n : Nat) : inRange a n = true ↔ a + n ≤ Config.bufBytes := by
  simp [inRange]

theorem State.ranged_inside {s : State} {n : Nat} (b : Body) (h : s.base + n ≤ Config.bufBytes) :
    s.ranged n b = b := by
  simp [State.ranged, inRange, h]

theorem State.ranged_outside {s : State} {n : Nat} (b : Body) (h : Config.bufBytes < s.base + n) :
    s.ranged n b = .error { kind := .bufferRange, addr := s.base, readTo := 0 } := by
  simp [State.ranged, inRange, Nat.not_le.2 h]

/-- A range check that answers a commit was in BUF, and the commit is the body's. -/
theorem State.ranged_ok {s : State} {n : Nat} {b : Body} {c : Commit} (h : s.ranged n b = .ok c) :
    s.base + n ≤ Config.bufBytes ∧ b = .ok c := by
  unfold State.ranged at h
  split at h
  · rename_i hr
    exact ⟨(inRange_iff _ _).1 hr, h⟩
  · cases h

theorem State.ranged_readTo (s : State) (n : Nat) (b : Body) :
    bodyReadTo (s.ranged n b) = if inRange s.base n then bodyReadTo b else 0 := by
  unfold State.ranged
  split <;> rfl

/-! ### Completion (R104) -/

theorem State.complete_ok (s : State) (c : Commit) :
    s.complete (.ok c) = .next (c.state.succeed.setFault (s.faultAfterReads s.base (c.readTo - s.base))) := rfl

theorem State.complete_error (s : State) (e : Raise) :
    s.complete (.error e) = .next ((s.report e.kind e.addr).setFault (s.faultAfterReads s.base (e.readTo - s.base))) := rfl

/-- A completion always answers a next state, which is one of two. -/
theorem State.complete_cases {s t : State} {b : Body} (h : s.complete b = .next t) :
    (∃ c, b = .ok c ∧ t = c.state.succeed.setFault (s.faultAfterReads s.base (c.readTo - s.base))) ∨
    (∃ e, b = .error e ∧ t = (s.report e.kind e.addr).setFault (s.faultAfterReads s.base (e.readTo - s.base))) := by
  cases b with
  | ok c => exact .inl ⟨c, rfl, by simpa [State.complete_ok] using h.symm⟩
  | error e => exact .inr ⟨e, rfl, by simpa [State.complete_error] using h.symm⟩

theorem State.complete_answers (s : State) (b : Body) : ∃ t, s.complete b = .next t := ⟨_, rfl⟩

/-! ### Error codes and STATUS (R25, R200) -/

theorem errCode_range (k : ErrKind) : 1 ≤ (errCode k).toNat ∧ (errCode k).toNat ≤ 6 := by cases k <;> decide

theorem errCode_ne_zero (k : ErrKind) : errCode k ≠ 0 := by cases k <;> decide

theorem errCode_inj {k l : ErrKind} (h : errCode k = errCode l) : k = l := by
  revert h
  cases k <;> cases l <;> decide

theorem completionCode_le (o : Option ErrKind) : (completionCode o).toNat ≤ 6 := by
  cases o with
  | none => decide
  | some k => exact (errCode_range k).2

/-- A legal STATUS with BUSY is 0x1: DONE is then clear. -/
theorem legalStatus_busy {v : Word} (h : legalStatus v = true) (hb : v.getLsbD 0 = true) : v = statusBusy := by
  simp only [legalStatus, Bool.or_eq_true, beq_iff_eq] at h
  rcases h with ((rfl | rfl) | rfl) | rfl
  · exact absurd hb (by decide)
  · rfl
  · exact absurd hb (by decide)
  · exact absurd hb (by decide)

/-- A host write while BUSY leaves a code of R200 in ERRCODE. -/
theorem State.regWriteBusy_errcode_le {s : State} (n : BitVec 8) (h : s.errcode.toNat ≤ 6) :
    (s.regWriteBusy n).errcode.toNat ≤ 6 := by
  unfold State.regWriteBusy
  split
  · exact h
  · rename_i r _
    split
    · exact h
    · split
      · exact h
      · cases r
        case errcode =>
          have h6 : (((completionCode (drawnError s.freeLane)).setWidth 128).setWidth 8 : Byte) =
              completionCode (drawnError s.freeLane) := BitVec.setWidth_setWidth_of_le _ (by decide)
          show BitVec.toNat (((completionCode (drawnError s.freeLane)).setWidth 128).setWidth 8 : Byte) ≤ 6
          rw [h6]
          exact completionCode_le _
        all_goals exact h

/-- A command that reads no byte sets no fault. -/
@[simp] theorem State.faultAfterReads_none (s : State) (a : Nat) : s.faultAfterReads a 0 = s.fault := rfl

/-- Reading written bytes sets no fault (R231). -/
theorem State.faultAfterReads_written {s : State} {a n : Nat} (h : s.allWritten a n = true) :
    s.faultAfterReads a n = s.fault := by
  simp [State.faultAfterReads, h]

/-! ### A command is its pseudocode, completed (R103) -/

theorem exec_eq_complete (i : Instr) (s : State) : exec i s = s.complete (bodyOf i s) := by
  cases i <;> rfl

/-- What a command reads does not depend on the outside world's turns. -/
theorem readLength_inputs (i : Instr) (s : State) (ts : List Input) :
    readLength i { s with inputs := ts } = readLength i s := by
  have hb : State.bufByte { s with inputs := ts } = s.bufByte := rfl
  cases i <;> simp only [readLength, bodyOf]
  case nop => rfl
  case crcInit => rfl
  case crcByte => rfl
  case crcBuf => simp only [crcWindowBody, State.ranged_readTo]; rfl
  case crc16 => simp only [crcWindowBody, State.ranged_readTo]; rfl
  case reflect w => unfold reflectBody; split <;> rfl
  case venc => simp only [vencBody, State.ranged_readTo]; rfl
  case vdec =>
    simp only [vdecBody, State.ranged_readTo]
    have : State.windowEnd { s with inputs := ts } = s.windowEnd := rfl
    have h2 : State.base { s with inputs := ts } = s.base := rfl
    simp only [hb, this, h2]
    cases vdec s.bufByte s.base s.windowEnd <;> rfl
  case ofdec =>
    simp only [ofdecBody, State.ranged_readTo]
    have h2 : State.base { s with inputs := ts } = s.base := rfl
    simp only [hb, h2]
    by_cases hm : s.bufByte s.base = outerMarker <;> simp [hm, bodyReadTo]
  case ofenc => simp only [ofencBody, State.ranged_readTo]; rfl
  case hdec =>
    simp only [hdecBody, State.ranged_readTo]
    have : State.windowEnd { s with inputs := ts } = s.windowEnd := rfl
    have h2 : State.base { s with inputs := ts } = s.base := rfl
    simp only [hb, this, h2]
    cases parseHeader s.bufByte s.windowEnd s.base <;> rfl
  case henc => simp only [hencBody, State.ranged_readTo]; rfl

/-- The fault after a command is decided by the bytes it read (R231, R243). -/
theorem exec_fault {i : Instr} {s t : State} (h : exec i s = .next t) :
    t.fault = s.faultAfterReads s.base (readLength i s) := by
  rw [exec_eq_complete] at h
  unfold readLength
  rcases State.complete_cases h with ⟨c, hc, rfl⟩ | ⟨e, hc, rfl⟩ <;> rw [hc] <;> rfl

/-! ### A step is one turn (R63) -/

theorem step_engine {s : State} (h : s.engineNext) :
    step s = engineTurn { s with inputs := s.inputs.tail } := by
  rcases h with h | ⟨ts, h⟩
  · simp only [step, nextTurn, h, List.tail_nil]
    congr 1
    cases s
    simp_all
  · simp only [step, nextTurn, h, List.tail_cons, takeTurn]

theorem step_turn {s : State} {t : Input} {ts : List Input} (h : s.inputs = t :: ts) :
    step s = takeTurn t { s with inputs := ts } := by
  simp only [step, nextTurn, h]

/-- The engine's turn with an undisturbed command pending is the command's meaning (R103). -/
theorem engineTurn_command {s : State} {i : Instr} (hb : s.busy = true) (hd : s.disturbed = false)
    (hi : decode s.cmd = .ok i) : engineTurn s = exec i s := by
  simp [engineTurn, execute, hb, hd, hi]

/-- The engine's turn with an undisturbed word pending that stands for no command (R103). -/
theorem engineTurn_rejected {s : State} {r : Reject} (hb : s.busy = true) (hd : s.disturbed = false)
    (hi : decode s.cmd = .error r) :
    engineTurn s = s.complete (.error { kind := .illegalCommand, addr := 0, readTo := 0 }) := by
  simp [engineTurn, execute, hb, hd, hi]

/-- The engine's turn with a disturbed command pending (R240; log entry 7). -/
theorem engineTurn_disturbed {s : State} (hb : s.busy = true) (hd : s.disturbed = true) :
    engineTurn s = .next s.completeDisturbed := by
  simp [engineTurn, execute, hb, hd]

/-- What the engine's turn can do. -/
theorem engineTurn_cases (s : State) :
    (s.busy = false ∧ engineTurn s = .next s) ∨
    (s.busy = true ∧ s.disturbed = true ∧ engineTurn s = .next s.completeDisturbed) ∨
    (s.busy = true ∧ s.disturbed = false ∧ (∃ r, decode s.cmd = .error r) ∧
      engineTurn s = .next (s.report .illegalCommand 0)) ∨
    (s.busy = true ∧ s.disturbed = false ∧ ∃ i, decode s.cmd = .ok i ∧ engineTurn s = exec i s) := by
  unfold engineTurn execute
  cases hb : s.busy
  · simp
  · cases hd : s.disturbed
    · cases hc : decode s.cmd with
      | error r =>
        simp [State.complete, State.completed, State.setFault, State.report]
      | ok i => simp
    · simp

end Sys2Proof.Machine
end

