-- ==== Sys2Proof/Laws/Commit.lean ====
section
/-!
SUPPORT. What a command's commit leaves alone, and that it keeps BUF's canonical form (10_state.md R20, R36).
-/

namespace Sys2Proof.Machine

/-- Every field that no command's commit writes. -/
structure CommitKeeps (s t : State) : Prop where
  cmd : t.cmd = s.cmd
  status : t.status = s.status
  errcode : t.errcode = s.errcode
  erraddr : t.erraddr = s.erraddr
  addr : t.addr = s.addr
  len : t.len = s.len
  fault : t.fault = s.fault
  spoiled : t.spoiled = s.spoiled
  powerOns : t.powerOns = s.powerOns
  draws : t.draws = s.draws
  disturbed : t.disturbed = s.disturbed
  inputs : t.inputs = s.inputs
  reply : t.reply = s.reply

theorem bodyOf_keeps {i : Instr} {s : State} {c : Commit} (h : bodyOf i s = .ok c) : CommitKeeps s c.state := by
  cases i <;> simp only [bodyOf] at h
  case nop => cases h; constructor <;> rfl
  case crcInit => cases h; constructor <;> rfl
  case crcByte => cases h; constructor <;> rfl
  case crcBuf => obtain ⟨_, h⟩ := State.ranged_ok h; cases h; constructor <;> rfl
  case crc16 => obtain ⟨_, h⟩ := State.ranged_ok h; cases h; constructor <;> rfl
  case reflect => unfold reflectBody at h; split at h <;> cases h; constructor <;> rfl
  case venc => obtain ⟨_, h⟩ := State.ranged_ok h; cases h; constructor <;> rfl
  case vdec => obtain ⟨_, h⟩ := State.ranged_ok h; split at h <;> cases h; constructor <;> rfl
  case ofdec => obtain ⟨_, h⟩ := State.ranged_ok h; split at h <;> cases h; constructor <;> rfl
  case ofenc => obtain ⟨_, h⟩ := State.ranged_ok h; cases h; constructor <;> rfl
  case hdec => obtain ⟨_, h⟩ := State.ranged_ok h; split at h <;> cases h; constructor <;> rfl
  case henc => obtain ⟨_, h⟩ := State.ranged_ok h; cases h; constructor <;> rfl

/-- The commit of a range-checked write of bytes at ADDR, in the canonical form. -/
theorem wf_ranged_write {s : State} {bs : List Byte} {n : Word} {c : Commit} (hw : Memory.wf s.buf)
    (h : s.ranged bs.length (.ok { state := { s.memWrite s.base bs with cnt := n }, readTo := 0 }) = .ok c) :
    Memory.wf c.state.buf := by
  obtain ⟨hr, h⟩ := State.ranged_ok h
  cases h
  exact Memory.wf_storeBytes hw hr

theorem bodyOf_wf {i : Instr} {s : State} {c : Commit} (h : bodyOf i s = .ok c) (hw : Memory.wf s.buf) :
    Memory.wf c.state.buf := by
  cases i <;> simp only [bodyOf] at h
  case nop => cases h; exact hw
  case crcInit => cases h; exact hw
  case crcByte => cases h; exact hw
  case crcBuf => obtain ⟨_, h⟩ := State.ranged_ok h; cases h; exact hw
  case crc16 => obtain ⟨_, h⟩ := State.ranged_ok h; cases h; exact hw
  case reflect => unfold reflectBody at h; split at h <;> cases h; exact hw
  case venc => exact wf_ranged_write hw h
  case vdec => obtain ⟨_, h⟩ := State.ranged_ok h; split at h <;> cases h; exact hw
  case ofdec => obtain ⟨_, h⟩ := State.ranged_ok h; split at h <;> cases h; exact hw
  case ofenc => exact wf_ranged_write (bs := oframe s.hcrc s.hlen) hw h
  case hdec => obtain ⟨_, h⟩ := State.ranged_ok h; split at h <;> cases h; exact hw
  case henc => exact wf_ranged_write hw h

end Sys2Proof.Machine
end

