-- ==== Sys2Proof/Laws/Varint.lean ====
section
/-!
SUPPORT. What the varint encoder and decoder do (42_varint.md R150, R151): the encoder's length and bytes, and the three
ways the decoder ends.
-/

namespace Sys2Proof.Machine

/-! ### The encoder -/

theorem shiftRight_seven_toNat (v : Value) : (v >>> 7).toNat = v.toNat / 128 := by
  simp [BitVec.toNat_ushiftRight, Nat.shiftRight_eq_div_pow]

theorem pow_seven_succ (k : Nat) : 2 ^ (7 * (k + 1)) = 2 ^ (7 * k) * 128 := by
  rw [Nat.mul_add, Nat.pow_add]

theorem shiftRight_seven_lt {v : Value} {k : Nat} (h : v.toNat < 2 ^ (7 * (k + 1))) :
    (v >>> 7).toNat < 2 ^ (7 * k) := by
  rw [shiftRight_seven_toNat, Nat.div_lt_iff_lt_mul (by omega), ← pow_seven_succ]
  exact h

theorem vencLoop_length (f : Nat) (v : Value) : 1 ≤ (vencLoop f v).length ∧ (vencLoop f v).length ≤ f + 1 := by
  induction f generalizing v with
  | zero => simp [vencLoop]
  | succ f ih =>
    rw [vencLoop]
    split
    · have := ih (v >>> 7)
      simp
      omega
    · simp

/-- The loop emits a byte for each 7-bit group up to the last that is not 0, and no other. -/
theorem vencLoop_length_least {f : Nat} {v : Value} (hf : v.toNat < 2 ^ (7 * (f + 1))) :
    v.toNat < 2 ^ (7 * (vencLoop f v).length) ∧
      ∀ m, 1 ≤ m → v.toNat < 2 ^ (7 * m) → (vencLoop f v).length ≤ m := by
  induction f generalizing v with
  | zero => exact ⟨hf, fun m hm _ => hm⟩
  | succ f ih =>
    rw [vencLoop]
    split
    · rename_i h
      obtain ⟨i1, i2⟩ := ih (shiftRight_seven_lt hf)
      refine ⟨?_, fun m hm hv => ?_⟩
      · rw [shiftRight_seven_toNat, Nat.div_lt_iff_lt_mul (by omega), ← pow_seven_succ] at i1
        simpa using i1
      · obtain ⟨m, rfl⟩ : ∃ k, m = k + 1 := ⟨m - 1, by omega⟩
        have hv := shiftRight_seven_lt hv
        have h1 : 1 ≤ m := by
          by_contra hc
          obtain rfl : m = 0 := by omega
          rw [shiftRight_seven_toNat] at hv
          simp at hv
          omega
        have := i2 m h1 hv
        simp
        omega
    · rename_i h
      exact ⟨by simp; omega, fun m hm _ => by simpa using hm⟩

/-- Byte `k` carries the `k`-th group of 7 bits, and bit 7 in every byte but the last. -/
theorem vencLoop_getElem {f : Nat} {v : Value} (hf : v.toNat < 2 ^ (7 * (f + 1))) {k : Nat}
    (hk : k < (vencLoop f v).length) :
    (vencLoop f v)[k] =
      BitVec.ofNat 8 (v.toNat / 128 ^ k % 128 + (if k + 1 < (vencLoop f v).length then 128 else 0)) := by
  have last : ∀ v : Value, v.toNat < 128 → v.extractLsb' 0 8 = BitVec.ofNat 8 (v.toNat % 128) := by
    intro v h
    apply BitVec.eq_of_toNat_eq
    simp
    omega
  have more : ∀ v : Value, (v.extractLsb' 0 8 ||| 0x80#8) = BitVec.ofNat 8 (v.toNat % 128 + 128) := by
    intro v
    have : ∀ b : Byte, (b ||| 0x80#8) = BitVec.ofNat 8 (b.toNat % 128 + 128) := by decide
    rw [this]
    congr 1
    simp
  induction f generalizing v k with
  | zero =>
    simp only [vencLoop, List.length_singleton, Nat.lt_one_iff] at hk ⊢
    subst hk
    simpa using last v (by simpa using hf)
  | succ f ih =>
    simp only [vencLoop] at hk ⊢
    split
    · rename_i h
      simp only [h, if_true, List.length_cons] at hk
      have l1 := (vencLoop_length f (v >>> 7)).1
      cases k with
      | zero =>
        simp only [List.getElem_cons_zero, List.length_cons]
        rw [more, if_pos (by omega)]
        simp
      | succ k =>
        simp only [List.getElem_cons_succ, List.length_cons]
        rw [ih (shiftRight_seven_lt hf) (by omega), shiftRight_seven_toNat, Nat.div_div_eq_div_mul, Nat.pow_succ']
        simp
    · rename_i h
      simp only [h, if_false, List.length_singleton, Nat.lt_one_iff] at hk
      subst hk
      simpa using last v (by omega)

theorem venc_getElem (v : Value) {k : Nat} (hk : k < (venc v).length) :
    (venc v)[k] = BitVec.ofNat 8 (v.toNat / 128 ^ k % 128 + (if k + 1 < (venc v).length then 128 else 0)) :=
  vencLoop_getElem (by have := v.isLt; omega) hk

/-! ### The decoder -/

theorem varintGroup_eq (b : Byte) : varintGroup b = b.toNat % 128 := by
  simp [varintGroup]

theorem varintMore_ofNat {x : Nat} (h : x < 256) : varintMore (BitVec.ofNat 8 x) = decide (128 ≤ x) := by
  revert x
  decide +kernel

/-- The base-128 groups of a value, as the groups of a list of bytes, stand for the value. -/
theorem varintValue_of_groups {bs : List Byte} {v : Nat} (hv : v < 128 ^ bs.length)
    (h : ∀ k (hk : k < bs.length), varintGroup bs[k] = v / 128 ^ k % 128) : varintValue bs = v := by
  induction bs generalizing v with
  | nil =>
    simp at hv
    subst hv
    rfl
  | cons b bs ih =>
    have h0 := h 0 (by simp)
    simp at h0
    rw [varintValue, h0, ih (v := v / 128)
      (by rw [Nat.div_lt_iff_lt_mul (by omega), ← Nat.pow_succ]; exact hv)
      (fun k hk => by
        have := h (k + 1) (by simp; omega)
        simp only [List.getElem_cons_succ] at this
        rw [this, Nat.div_div_eq_div_mul, Nat.pow_succ'])]
    omega

/-- The loop on a terminated varint of `m` bytes. -/
theorem vdecLoop_terminated {rd : Nat → Byte} {f p k acc m : Nat} {bs : List Byte} (hm : 1 ≤ m) (hf : m ≤ f)
    (h1 : ∀ j, j + 1 < m → varintMore (rd (p + j)) = true) (h2 : varintMore (rd (p + (m - 1))) = false)
    (hl : bs.length = m) (hb : ∀ j (h : j < bs.length), bs[j] = rd (p + j)) :
    vdecLoop rd f p k acc = .ok (acc + varintValue bs * 128 ^ k, p + m) := by
  induction f generalizing p k acc m bs with
  | zero => omega
  | succ f ih =>
    cases bs with
    | nil =>
      simp at hl
      omega
    | cons b bs =>
      have hb0 : b = rd p := hb 0 (by simp)
      rw [vdecLoop]
      by_cases hm1 : m = 1
      · subst hm1
        obtain rfl : bs = [] := by simpa using hl
        rw [if_neg (by simpa using h2), hb0]
        simp [varintValue]
      · have step : ∀ j, p + 1 + j = p + (j + 1) := by omega
        rw [if_pos (by simpa using h1 0 (by omega)),
          ih (m := m - 1) (bs := bs) (by omega) (by omega) (fun j hj => step j ▸ h1 _ (by omega))
            (by rw [show p + 1 + (m - 1 - 1) = p + (m - 1) by omega]; exact h2)
            (by simp at hl; omega)
            (fun j h => by
              have := hb (j + 1) (by simp; omega)
              rw [step]
              simpa using this)]
        congr 2
        · rw [hb0, varintValue, Nat.pow_succ]
          ring
        · omega

/-- The loop on bytes that all have their continuation bit. -/
theorem vdecLoop_overrun {rd : Nat → Byte} {f p k acc : Nat} (h : ∀ j, j < f → varintMore (rd (p + j)) = true) :
    vdecLoop rd f p k acc = .error { kind := .varintOverrun, addr := p + f, readTo := p + f } := by
  induction f generalizing p k acc with
  | zero => rfl
  | succ f ih =>
    have step : ∀ j, p + 1 + j = p + (j + 1) := by omega
    rw [vdecLoop, if_pos (by simpa using h 0 (by omega)), ih (fun j hj => step j ▸ h _ (by omega))]
    simp
    omega

theorem vdecLoop_varintAt {s : State} {p stop m : Nat} (h : s.varintAt p m) (hm : p + m ≤ stop) :
    vdecLoop s.bufByte (stop - p) p 0 0 = .ok (s.varintValueAt p m, p + m) := by
  rw [vdecLoop_terminated h.1 (by omega) h.2.1 h.2.2 (State.memRead_length s p m)
    (fun j hj => State.getElem_memRead s p m hj)]
  simp [State.varintValueAt]

theorem vdec_ok {s : State} {p stop m : Nat} (h : s.varintAt p m) (hm : p + m ≤ stop)
    (hv : s.varintValueAt p m < 2 ^ 64) :
    vdec s.bufByte p stop = .ok (BitVec.ofNat 64 (s.varintValueAt p m), p + m) := by
  simp only [vdec, vdecLoop_varintAt h hm]
  rw [if_neg (by omega)]

theorem vdec_overflow {s : State} {p stop m : Nat} (h : s.varintAt p m) (hm : p + m ≤ stop)
    (hv : 2 ^ 64 ≤ s.varintValueAt p m) :
    vdec s.bufByte p stop = .error { kind := .varintOverflow, addr := p, readTo := p + m } := by
  simp only [vdec, vdecLoop_varintAt h hm]
  rw [if_pos (by omega)]

theorem vdec_overrun {s : State} {p stop : Nat} (hp : p ≤ stop)
    (h : ∀ k, p ≤ k → k < stop → varintMore (s.bufByte k) = true) :
    vdec s.bufByte p stop = .error { kind := .varintOverrun, addr := stop, readTo := stop } := by
  have he : p + (stop - p) = stop := by omega
  simp only [vdec]
  rw [vdecLoop_overrun (fun j hj => h _ (by omega) (by omega)), he]

/-- The encoder's bytes, where they stand in BUF, are a terminated varint of the encoded value. -/
theorem varintAt_venc {s : State} {p : Nat} {v : Value} (h : s.memRead p (venc v).length = venc v) :
    s.varintAt p (venc v).length ∧ s.varintValueAt p (venc v).length = v.toNat := by
  have hb : ∀ k, k < (venc v).length → s.bufByte (p + k) =
      BitVec.ofNat 8 (v.toNat / 128 ^ k % 128 + (if k + 1 < (venc v).length then 128 else 0)) := by
    intro k hk
    rw [← venc_getElem v hk, ← State.getElem_memRead s p (venc v).length (by rw [State.memRead_length]; exact hk)]
    simp only [h]
  have h1 : 1 ≤ (venc v).length := (vencLoop_length 9 v).1
  have hl : v.toNat < 2 ^ (7 * (venc v).length) := (vencLoop_length_least (by have := v.isLt; omega)).1
  refine ⟨⟨h1, fun k hk => ?_, ?_⟩, ?_⟩
  · rw [hb k (by omega), if_pos hk, varintMore_ofNat (by omega)]
    simp
  · rw [hb _ (by omega), if_neg (by omega), varintMore_ofNat (by omega)]
    simp
    omega
  · rw [State.varintValueAt, h]
    refine varintValue_of_groups (by rwa [Nat.pow_mul] at hl) (fun k hk => ?_)
    rw [venc_getElem v hk, varintGroup_eq]
    split <;> simp

end Sys2Proof.Machine
end

