-- ==== Sys2Proof/Laws/Framer.lean ====
section
/-!
SUPPORT. What the framer's helpers do: big-endian pairs, uuid bytes, and the header parser where its checks pass
(43_framer.md R170 to R175).
-/

namespace Sys2Proof.Machine

theorem be16_toNat (hi lo : Byte) : (be16 hi lo).toNat = hi.toNat * 256 + lo.toNat := by
  show (hi ++ lo).toNat = _
  rw [BitVec.toNat_append, ← Nat.shiftLeft_add_eq_or_of_lt (by have := lo.isLt; omega), Nat.shiftLeft_eq]

theorem hiByte_toNat (v : Half) : (hiByte v).toNat = v.toNat / 256 := by
  simp [hiByte, Nat.shiftRight_eq_div_pow]
  omega

theorem loByte_toNat (v : Half) : (loByte v).toNat = v.toNat % 256 := by
  simp [loByte]

/-- Byte `i` of a uuid built from bytes is byte `i` of them (R34). -/
theorem extractLsb'_uuidOfBytes {bs : List Byte} {i : Nat} (hl : bs.length ≤ 16) (h : i < bs.length) :
    (uuidOfBytes bs).extractLsb' (8 * i) 8 = bs[i] := by
  induction bs generalizing i with
  | nil => simp at h
  | cons b bs ih =>
    simp only [List.length_cons] at hl h
    apply BitVec.eq_of_getLsbD_eq
    intro j hj
    rw [uuidOfBytes, BitVec.getLsbD_extractLsb', BitVec.getLsbD_or, BitVec.getLsbD_shiftLeft, BitVec.getLsbD_setWidth]
    cases i with
    | zero =>
      have : j < 128 := by omega
      simp [hj, this]
    | succ i =>
      have := congrArg (fun v => BitVec.getLsbD v j) (ih (i := i) (by omega) (by omega))
      simp only [BitVec.getLsbD_extractLsb', hj, decide_true, Bool.true_and] at this
      simp only [List.getElem_cons_succ, ← this]
      have h1 : 8 * (i + 1) + j < 128 := by omega
      have h2 : ¬ (8 * (i + 1) + j < 8) := by omega
      have h3 : 8 * (i + 1) + j - 8 = 8 * i + j := by omega
      have h4 : b.getLsbD (8 * (i + 1) + j) = false := by
        apply BitVec.getLsbD_of_ge
        omega
      simp [hj, h1, h2, h3, h4]

/-! ### The parser's steps where they pass -/

theorem expect_ok {rd : Nat → Byte} {stop : Nat} {c : Byte} {p : Nat} (h : p < stop) (hc : rd p = c) :
    expect rd stop c p = .ok (p + 1) := by
  simp [expect, Nat.not_le.2 h, hc]

theorem take_ok {rd : Nat → Byte} {stop p : Nat} (h : p < stop) : take rd stop p = .ok (rd p, p + 1) := by
  simp [take, Nat.not_le.2 h]

theorem takeUuid_ok {rd : Nat → Byte} {stop p : Nat} (h : p + 16 ≤ stop) :
    takeUuid rd stop p = .ok (uuidOfBytes ((List.range 16).map (fun i => rd (p + i))), p + 16) := by
  simp [takeUuid, Nat.not_lt.2 h]

/-- The parse of a header whose prologue is good: the record_type decides about the tail. -/
theorem parseHeader_prologueGood {s : State} (hg : s.prologueGood) :
    parseHeader s.bufByte s.windowEnd s.base =
      (if s.bufByte (s.base + 1) = 2 then
        .ok ({ rtype := s.bufByte (s.base + 1),
               uuid := uuidOfBytes ((List.range 16).map (fun i => s.bufByte (s.base + 4 + i))),
               unk1 := 0, unk2 := 0, psize := 0, pcrc := 0 }, s.base + 20)
      else parseTail s.bufByte s.windowEnd (s.bufByte (s.base + 1))
        (uuidOfBytes ((List.range 16).map (fun i => s.bufByte (s.base + 4 + i)))) (s.base + 20)) := by
  obtain ⟨h1, h2, h3, h4⟩ := hg
  have hw : s.windowEnd = s.base + s.len.toNat := rfl
  have e1 : expect s.bufByte s.windowEnd markerA s.base = .ok (s.base + 1) := expect_ok (by omega) h2
  have e2 : take s.bufByte s.windowEnd (s.base + 1) = .ok (s.bufByte (s.base + 1), s.base + 2) := take_ok (by omega)
  have e3 : expect s.bufByte s.windowEnd markerB (s.base + 2) = .ok (s.base + 3) := expect_ok (by omega) h3
  have e4 : expect s.bufByte s.windowEnd markerC (s.base + 3) = .ok (s.base + 4) := expect_ok (by omega) h4
  have e5 := takeUuid_ok (rd := s.bufByte) (stop := s.windowEnd) (p := s.base + 4) (by omega)
  unfold parseHeader
  simp only [e1, e2, e3, e4, e5, bind, Except.bind, pure, Except.pure]
  rfl

end Sys2Proof.Machine
end

