-- ==== Sys2Proof/Laws/PerInstr.lean ====
section
/-!
SUPPORT. A statement for every command, one lemma per constructor: the word of a command has RSV = 0 (30_encoding.md
R70, R72 item 2).
-/

namespace Sys2Proof.Laws.ReservedZero

/-- The command's word has its reserved bits 0. -/
def Statement (i : Instr) : Prop := fieldRsv (encode i) = 0

theorem nop : Statement .nop := by unfold Statement; decide

theorem crcInit : Statement .crcInit := by unfold Statement; decide

theorem crcByte : Statement .crcByte := by unfold Statement; decide

theorem crcBuf : Statement .crcBuf := by unfold Statement; decide

theorem crc16 : Statement .crc16 := by unfold Statement; decide

theorem reflect (w : BitVec 7) : Statement (.reflect w) := by
  unfold Statement
  revert w
  decide

theorem venc : Statement .venc := by unfold Statement; decide

theorem vdec : Statement .vdec := by unfold Statement; decide

theorem ofdec : Statement .ofdec := by unfold Statement; decide

theorem ofenc : Statement .ofenc := by unfold Statement; decide

theorem hdec : Statement .hdec := by unfold Statement; decide

theorem henc : Statement .henc := by unfold Statement; decide

end Sys2Proof.Laws.ReservedZero
end

