-- ==== Sys2Proof/Laws/Reads.lean ====
section
/-!
SUPPORT. Which bytes a decoder depends on: from its first address to the end of what it says it has read
(20_memory.md R62).
-/

namespace Sys2Proof.Machine

/-- The end of what a decoder has read: the address after its result, or the error's `readTo`. -/
def readEnd {α : Type} (pos : α → Nat) : Except Raise α → Nat
  | .ok a => pos a
  | .error e => e.readTo

/-- A decoder that starts at `p` ends at `p` or later and depends on the bytes in between alone. -/
def ReadsFrom {α : Type} (pos : α → Nat) (x : (Nat → Byte) → Except Raise α) (p : Nat) : Prop :=
  ∀ rd, p ≤ readEnd pos (x rd) ∧ ∀ rd', (∀ a, p ≤ a → a < readEnd pos (x rd) → rd' a = rd a) → x rd' = x rd

theorem ReadsFrom.bind {α β : Type} {pa : α → Nat} {pb : β → Nat} {x : (Nat → Byte) → Except Raise α}
    {y : (Nat → Byte) → α → Except Raise β} {p : Nat} (hx : ReadsFrom pa x p)
    (hy : ∀ a, ReadsFrom pb (fun rd => y rd a) (pa a)) : ReadsFrom pb (fun rd => x rd >>= y rd) p := by
  intro rd
  obtain ⟨h1, h2⟩ := hx rd
  simp only
  cases hr : x rd with
  | error e =>
    rw [hr] at h1 h2
    refine ⟨h1, fun rd' h => ?_⟩
    rw [h2 rd' h]
    rfl
  | ok a =>
    rw [hr] at h1 h2
    obtain ⟨h3, h4⟩ := hy a rd
    simp only at h3 h4
    rw [show (Except.ok a >>= y rd) = y rd a from rfl]
    simp only [readEnd] at h1 h2
    refine ⟨le_trans h1 h3, fun rd' h => ?_⟩
    rw [h2 rd' (fun c hc hd => h c hc (by omega))]
    exact h4 rd' (fun c hc hd => h c (by omega) hd)

theorem ReadsFrom.pure {α : Type} (pos : α → Nat) (a : α) : ReadsFrom pos (fun _ => .ok a) (pos a) :=
  fun _ => ⟨le_refl _, fun _ _ => rfl⟩

theorem readsFrom_expect (stop : Nat) (c : Byte) (p : Nat) :
    ReadsFrom (α := Nat) (fun q => q) (fun rd => expect rd stop c p) p := by
  intro rd
  simp only [expect]
  split
  · exact ⟨le_refl _, fun _ _ => rfl⟩
  · split
    · rename_i h2
      refine ⟨by simp [readEnd], fun rd' h => ?_⟩
      rw [h p (le_refl _) (by simp [readEnd]), if_pos h2]
    · rename_i h2
      refine ⟨by simp [readEnd], fun rd' h => ?_⟩
      rw [h p (le_refl _) (by simp [readEnd]), if_neg h2]

theorem readsFrom_take (stop p : Nat) :
    ReadsFrom (α := Byte × Nat) (fun q => q.2) (fun rd => take rd stop p) p := by
  intro rd
  simp only [take]
  split
  · exact ⟨le_refl _, fun _ _ => rfl⟩
  · refine ⟨by simp [readEnd], fun rd' h => ?_⟩
    rw [h p (le_refl _) (by simp [readEnd])]

theorem readsFrom_takeUuid (stop p : Nat) :
    ReadsFrom (α := Uuid × Nat) (fun q => q.2) (fun rd => takeUuid rd stop p) p := by
  intro rd
  simp only [takeUuid]
  split
  · exact ⟨le_refl _, fun _ _ => rfl⟩
  · refine ⟨by simp [readEnd], fun rd' h => ?_⟩
    congr 3
    apply List.map_congr_left
    intro i hi
    exact h _ (by omega) (by simp only [readEnd, List.mem_range] at *; omega)

theorem readsFrom_vdecLoop (f p k acc : Nat) :
    ReadsFrom (α := Nat × Nat) (fun q => q.2) (fun rd => vdecLoop rd f p k acc) p := by
  induction f generalizing p k acc with
  | zero => exact fun _ => ⟨le_refl _, fun _ _ => rfl⟩
  | succ f ih =>
    intro rd
    simp only [vdecLoop]
    cases hm : varintMore (rd p)
    · refine ⟨by simp [readEnd], fun rd' h => ?_⟩
      rw [h p (le_refl _) (by simp [readEnd]), hm]
      simp
    · simp only [if_true]
      obtain ⟨h1, h2⟩ := ih (p + 1) (k + 1) (acc + varintGroup (rd p) * 128 ^ k) rd
      simp only at h1 h2
      refine ⟨by omega, fun rd' h => ?_⟩
      rw [h p (le_refl _) (by omega), hm, if_pos rfl]
      exact h2 rd' (fun a ha hb => h a (by omega) hb)

theorem readsFrom_vdec (stop p : Nat) :
    ReadsFrom (α := Value × Nat) (fun q => q.2) (fun rd => vdec rd p stop) p := by
  intro rd
  obtain ⟨h1, h2⟩ := readsFrom_vdecLoop (stop - p) p 0 0 rd
  simp only [vdec]
  simp only at h1 h2
  cases hl : vdecLoop rd (stop - p) p 0 0 with
  | error e =>
    rw [hl] at h1 h2
    exact ⟨h1, fun rd' h => by rw [h2 rd' h]⟩
  | ok x =>
    obtain ⟨v, q⟩ := x
    rw [hl] at h1 h2
    simp only
    split
    · rename_i hv
      exact ⟨h1, fun rd' h => by rw [h2 rd' h]; simp only [hv, if_true]⟩
    · rename_i hv
      exact ⟨h1, fun rd' h => by rw [h2 rd' h]; simp only [hv, if_false]⟩

theorem readsFrom_parseTail (stop : Nat) (rt : Byte) (u : Uuid) (p : Nat) :
    ReadsFrom (α := Header × Nat) (fun q => q.2) (fun rd => parseTail rd stop rt u p) p := by
  unfold parseTail
  refine .bind (readsFrom_take _ _) fun _ => ?_
  refine .bind (readsFrom_take _ _) fun _ => ?_
  refine .bind (readsFrom_expect _ _ _) fun _ => ?_
  refine .bind (readsFrom_vdec _ _) fun _ => ?_
  refine .bind (readsFrom_expect _ _ _) fun _ => ?_
  refine .bind (readsFrom_vdec _ _) fun _ => ?_
  exact .pure (fun q : Header × Nat => q.2) _

theorem readsFrom_parseHeader (stop p : Nat) :
    ReadsFrom (α := Header × Nat) (fun q => q.2) (fun rd => parseHeader rd stop p) p := by
  unfold parseHeader
  refine .bind (readsFrom_expect _ _ _) fun _ => ?_
  refine .bind (readsFrom_take _ _) fun _ => ?_
  refine .bind (readsFrom_expect _ _ _) fun _ => ?_
  refine .bind (readsFrom_expect _ _ _) fun _ => ?_
  refine .bind (readsFrom_takeUuid _ _) fun _ => ?_
  simp only
  split
  · exact .pure (fun q : Header × Nat => q.2) _
  · exact readsFrom_parseTail _ _ _ _

end Sys2Proof.Machine
end

