-- ==== Sys2Proof/Tests/Slice0.lean ====
section
/-!
SUPPORT. The model's own tests: encodings written out from 30_encoding.md, commands on the vectors of
95_test_vectors.md, and for each statement with hypotheses a state and operands that meet them.
-/

namespace Sys2Proof.Tests

open Sys2Proof.Machine

/-! ## Small states -/

/-- The state an outcome answers, or `s` where it answers none. -/
def nextOr (s : State) : Host.Outcome State Fault Refusal → State
  | .next t => t
  | .fault _ => s
  | .refused _ => s

/-- The state after one command. -/
def after (i : Instr) (s : State) : State := nextOr s (exec i s)

/-- The state after one step. -/
def stepped (s : State) : State := nextOr s (step s)

theorem exec_after (i : Instr) (s : State) : exec i s = .next (after i s) := by
  obtain ⟨t, h⟩ := State.complete_answers s (bodyOf i s)
  rw [← exec_eq_complete] at h
  simp [after, nextOr, h]

/-- The reset state with bytes written at an address, and ADDR and LEN their window. -/
def holding (a : Nat) (bs : List Byte) : State :=
  { State.reset.memWrite a bs with addr := BitVec.ofNat 32 a, len := BitVec.ofNat 32 bs.length }

/-- A state with a command pending. -/
def pending (i : Instr) (s : State) : State :=
  { s with cmd := encode i, status := 0x1 }

/-- "123456789" (V-C07). -/
def digits : List Byte := [0x31, 0x32, 0x33, 0x34, 0x35, 0x36, 0x37, 0x38, 0x39]

/-- Header V-F1. -/
def headerF1 : List Byte :=
  [0x08, 0x01, 0x12, 0x10] ++ List.replicate 16 0x00 ++
    [0x01, 0x02, 0x28, 0x05, 0x30, 0x86, 0xcd, 0xc2, 0xb0, 0x03]

/-- Header V-F2. -/
def headerF2 : List Byte := [0x08, 0x02, 0x12, 0x10] ++ List.replicate 16 0x00

/-- Header V-F3. -/
def headerF3 : List Byte :=
  [0x08, 0x07, 0x12, 0x10, 0x00, 0x01, 0x02, 0x03, 0x04, 0x05, 0x06, 0x07, 0x08, 0x09, 0x0a, 0x0b,
    0x0c, 0x0d, 0x0e, 0x0f, 0xaa, 0x55, 0x28, 0xac, 0x02, 0x30, 0xff, 0xff, 0xff, 0xff, 0x0f]

/-! ## Well-formed commands and their words -/

/-- R72 item 3: the widths next to the ends of the range. -/
theorem test_wellFormed_reflect :
    (Instr.reflect 0).wellFormed = false ∧ (Instr.reflect 1).wellFormed = true ∧
      (Instr.reflect 64).wellFormed = true ∧ (Instr.reflect 65).wellFormed = false := by decide

/-- R71, the control family: OP = 0000_0000. -/
theorem test_decode_nop : decode 0b00000000000000000_0000000_00000000#32 = .ok .nop := by decide

/-- R71, the checksum family: OP = 0000_0001 to 0000_0100. -/
theorem test_decode_checksum :
    decode 0b00000000000000000_0000000_00000001#32 = .ok .crcInit ∧
    decode 0b00000000000000000_0000000_00000010#32 = .ok .crcByte ∧
    decode 0b00000000000000000_0000000_00000011#32 = .ok .crcBuf ∧
    decode 0b00000000000000000_0000000_00000100#32 = .ok .crc16 := by decide

/-- R70, R71: REFLECT, OP = 0000_0101, with W = 1, 16 and 64 in bits 14:8. -/
theorem test_decode_reflect :
    decode 0b00000000000000000_0000001_00000101#32 = .ok (.reflect 1) ∧
    decode 0b00000000000000000_0010000_00000101#32 = .ok (.reflect 16) ∧
    decode 0b00000000000000000_1000000_00000101#32 = .ok (.reflect 64) := by decide

/-- R71, the varint family: OP = 0001_0000 and 0001_0001. -/
theorem test_decode_varint :
    decode 0b00000000000000000_0000000_00010000#32 = .ok .venc ∧
    decode 0b00000000000000000_0000000_00010001#32 = .ok .vdec := by decide

/-- R71, the framer family: OP = 0010_0000 to 0010_0011. -/
theorem test_decode_framer :
    decode 0b00000000000000000_0000000_00100000#32 = .ok .ofdec ∧
    decode 0b00000000000000000_0000000_00100001#32 = .ok .ofenc ∧
    decode 0b00000000000000000_0000000_00100010#32 = .ok .hdec ∧
    decode 0b00000000000000000_0000000_00100011#32 = .ok .henc := by decide

/-- R72, V-X02 to V-X05: a reserved OP, W in CRC_INIT, a bit of RSV, OP = 0xFF. -/
theorem test_decode_rejects :
    decode 0x00000006 = .error .reservedOpcode ∧ decode 0x00000101 = .error .widthNotAllowed ∧
    decode 0x00008000 = .error .reservedBits ∧ decode 0x80001005 = .error .reservedBits ∧
    decode 0x000000FF = .error .reservedOpcode := by decide

/-- R75: a word is 32 bits, and the bits above those given are 0. -/
theorem test_decodeTableWord :
    decodeTableWord 32 0x00001005 = some (.reflect 16) ∧ decodeTableWord 32 0x00000006 = none ∧
    decodeTableWord 8 0x23 = some .henc ∧ decodeTableWord 33 0 = none := by decide

/-- R101, R102: the placed word is the pending command, and the next step completes it. -/
theorem test_withFetchWord :
    stepped (State.reset.withFetchWord 32 0x00000000) = { State.reset with status := 0x2 } ∧
    stepped (State.reset.withFetchWord 32 0x00000006) =
      { State.reset with cmd := 0x6, status := 0x6, errcode := 0x06 } := by decide

/-! ## Commands on the spec's vectors -/

/-- V-X01, V-X06. -/
theorem test_nop : after .nop { State.reset with errcode := 0x06, status := 0x1, cnt := 7 } =
    { State.reset with status := 0x2, cnt := 7 } := by decide

/-- V-C19. -/
theorem test_crcInit : (after .crcInit { State.reset with crc := 0xBCDD }).crc = 0x0000 := by decide

/-- V-C18: only VAL[7:0] is fed. -/
theorem test_crcByte : (after .crcByte { State.reset with val := 0x1FF31 }).crc = 0x832B := by decide +kernel

/-- V-C14: the second byte's row. -/
theorem test_crcByte_running :
    (after .crcByte { State.reset with crc := 0x832B, val := 0x32 }).crc = 0x29A2 := by decide +kernel

/-- V-C15. -/
theorem test_crcBuf_empty : (after .crcBuf { State.reset with crc := 0x1234, cnt := 3 }).crc = 0x1234 ∧
    (after .crcBuf { State.reset with crc := 0x1234, cnt := 3 }).cnt = 0 := by decide

/-- V-C21: the second window, after the first has left CRC = 0x205D. -/
theorem test_crcBuf_running :
    (after .crcBuf { holding 3 (digits.drop 3) with crc := 0x205D }).crc = 0xBCDD := by decide +kernel

/-- V-C07: the standard check value. -/
theorem test_crc16 : (after .crc16 (holding 0 digits)).crc = 0xBCDD ∧
    (after .crc16 (holding 0 digits)).cnt = 9 ∧ crc16 digits = 0xBB3D := by decide +kernel

/-- V-C17. -/
theorem test_crc16_range :
    after .crc16 { State.reset with crc := 0x1234, addr := 1, len := 65540 } =
      { State.reset with
        crc := 0x1234, addr := 1, len := 65540, status := 0x6, errcode := 0x05, erraddr := 1 } := by
  decide

/-- V-C12, V-C13 (R133): reversing the bytes need not change the CRC. -/
theorem test_crc16_reversal :
    crc16 [0xb6, 0x81, 0x00, 0x00, 0x00] = 0xE6E1 ∧ crc16 [0x00, 0x00, 0x00, 0x81, 0xb6] = 0xE6E1 ∧
    crc16 [0xb6, 0x37, 0x00, 0x00] = 0x8697 ∧ crc16 [0x00, 0x00, 0x37, 0xb6] = 0x8697 := by decide +kernel

/-- V-RF12. -/
theorem test_reflect_whole :
    (after (.reflect 64) { State.reset with val := 0x0123456789ABCDEF }).val = 0xF7B3D591E6A2C480 := by
  decide

/-- V-RF04: the bits at and above W are cleared. -/
theorem test_reflect_low : (after (.reflect 8) { State.reset with val := 0xFFFF }).val = 0xFF := by decide

/-- V-V08. -/
theorem test_venc : (after .venc { State.reset with val := 300 }).buf = [(0, 0xac), (1, 0x02)] ∧
    (after .venc { State.reset with val := 300 }).cnt = 2 := by decide

/-- V-V16: the longest varint. -/
theorem test_venc_longest :
    venc 0xFFFFFFFFFFFFFFFF = [0xff, 0xff, 0xff, 0xff, 0xff, 0xff, 0xff, 0xff, 0xff, 0x01] := by decide

/-- V-D05: the byte after the terminator is not read. -/
theorem test_vdec : (after .vdec (holding 0 [0xac, 0x02, 0x7f])).val = 300 ∧
    (after .vdec (holding 0 [0xac, 0x02, 0x7f])).cnt = 2 := by decide

/-- V-D13: overrun is checked before overflow. -/
theorem test_vdec_overrun_first :
    (after .vdec (holding 0 (List.replicate 9 0xff ++ [0x82]))).errcode = 0x03 ∧
    (after .vdec (holding 0 (List.replicate 9 0xff ++ [0x82]))).erraddr = 10 := by decide

/-- V-O02: the first byte of a pair is the high one. -/
theorem test_ofdec : (after .ofdec (holding 0 [0x40, 0xab, 0xcd, 0x01, 0x02])).hcrc = 0xABCD ∧
    (after .ofdec (holding 0 [0x40, 0xab, 0xcd, 0x01, 0x02])).hlen = 258 := by decide

/-- V-O03. -/
theorem test_ofdec_marker : (after .ofdec (holding 0 [0x41, 0xab, 0xcd, 0x01, 0x02])).errcode = 0x01 ∧
    (after .ofdec (holding 0 [0x41, 0xab, 0xcd, 0x01, 0x02])).hcrc = 0 := by decide

/-- V-O05. -/
theorem test_ofenc : (after .ofenc { State.reset with hcrc := 0xABCD, hlen := 258, addr := 7 }).buf =
    [(7, 0x40), (8, 0xab), (9, 0xcd), (10, 0x01), (11, 0x02)] := by decide

/-- V-F3. -/
theorem test_hdec : (after .hdec (holding 0 headerF3)).header =
    { rtype := 7, uuid := 0x0F0E0D0C0B0A09080706050403020100, unk1 := 0xAA, unk2 := 0x55,
      psize := 300, pcrc := 0xFFFFFFFF } := by decide

/-- V-H21: a record_type of 2 has no tail, whatever follows. -/
theorem test_hdec_typeTwo :
    (after .hdec (holding 0 (headerF1.set 1 0x02))).cnt = 20 ∧
    (after .hdec (holding 0 (headerF1.set 1 0x02))).psize = 0 := by decide

/-- V-F3, the other way. -/
theorem test_henc :
    headerBytes { rtype := 7, uuid := 0x0F0E0D0C0B0A09080706050403020100, unk1 := 0xAA, unk2 := 0x55,
                  psize := 300, pcrc := 0xFFFFFFFF } = headerF3 := by decide

/-- V-F2: the tail registers are not read. -/
theorem test_henc_typeTwo :
    (after .henc { State.reset with rtype := 2, unk1 := 9, psize := 5 }).memRead 0 20 = headerF2 ∧
    (after .henc { State.reset with rtype := 2, unk1 := 9, psize := 5 }).cnt = 20 := by decide

/-! ## Witnesses: the engine -/

theorem test_witness_stepRuns :
    (pending .venc State.reset).engineNext ∧ (pending .venc State.reset).busy = true ∧
    (pending .venc State.reset).disturbed = false ∧ decode (pending .venc State.reset).cmd = .ok .venc ∧
    Instr.venc.wellFormed = true :=
  ⟨.inl rfl, by decide, rfl, by decide, rfl⟩

theorem test_witness_illegalWord :
    State.engineNext { State.reset with cmd := 0x6, status := 0x1, inputs := [.engine, .reset] } ∧
    State.busy { State.reset with cmd := 0x6, status := 0x1 } = true ∧ legalWord 0x6 = false ∧
    legalWord 0x00004105 = false :=
  ⟨.inr ⟨_, rfl⟩, by decide, by decide, by decide⟩

theorem test_witness_idle : State.reset.engineNext ∧ State.reset.busy = false := ⟨.inl rfl, by decide⟩

theorem test_witness_cmdWrite :
    State.busy { State.reset with inputs := asmWr .cmd 0x6 } = false ∧ asmWr .cmd 0x6 = [.host (.regWrite 0 0x6)] := by
  decide

theorem test_witness_run :
    State.busy { State.reset with inputs := asmRun .crcByte 3 } = false ∧ Instr.crcByte.wellFormed = true ∧
    { State.reset with inputs := asmRun .crcByte 3 }.inputs = asmRun .crcByte 3 := by decide

theorem test_witness_errorsCommitNothing :
    exec .vdec State.reset = .next (after .vdec State.reset) ∧ (after .vdec State.reset).status = 0x6 :=
  ⟨exec_after _ _, by decide⟩

/-- The first address at which each kind of range no longer fits. -/
theorem test_witness_bufferRange :
    checkedLength .crc16 { State.reset with addr := 65540, len := 1 } = some 1 ∧ 65540 < 65540 + 1 ∧
    checkedLength .ofenc { State.reset with addr := 65536 } = some 5 ∧ 65540 < 65536 + 5 ∧
    checkedLength .venc { State.reset with addr := 65539, val := 128 } = some 2 ∧ 65540 < 65539 + 2 := by
  decide

/-! ## Witnesses: the checksum engine -/

theorem test_witness_nopWords : (0x00000100 : Word).extractLsb' 0 8 = 0x00#8 ∧ (0x00000100 : Word) ≠ 0 := by decide

/-- The last window that fits and the first that does not, for CRC_BUF and CRC16. -/
theorem test_witness_window :
    State.windowEnd { State.reset with addr := 65539, len := 1 } ≤ 65540 ∧
    65540 < State.windowEnd { State.reset with addr := 65540, len := 1 } := by decide

theorem test_witness_reflect : (1#7).toNat = 1 ∧ (64#7).toNat = 64 ∧ (0#7).toNat = 0 ∧ 64 < (65#7).toNat := by decide

theorem test_witness_bitFlip :
    ([0x01#8, 0x02#8].length = [0x03#8, 0x04#8].length) ∧ (1 < [0x01#8, 0x02#8].length) ∧ 7 < 8 := by decide

theorem test_witness_crcBufSplits :
    ∃ t1 t2 t : State,
      (holding 0 digits).addr.toNat + (3 + 6) ≤ 65540 ∧
      exec .crcBuf { holding 0 digits with len := BitVec.ofNat 32 3 } = .next t1 ∧
      exec .crcBuf { t1 with
        addr := BitVec.ofNat 32 ((holding 0 digits).addr.toNat + 3), len := BitVec.ofNat 32 6 } = .next t2 ∧
      exec .crcBuf { holding 0 digits with len := BitVec.ofNat 32 (3 + 6) } = .next t :=
  ⟨_, _, _, by decide, rfl, rfl, rfl⟩

/-! ## Witnesses: the varint codec -/

/-- The shortest and the longest encoding; the last address at which the longest fits, and the next one. -/
theorem test_witness_venc :
    (0x7F : Value).toNat < 2 ^ (7 * 1) ∧
    (0x8000000000000000 : Value).toNat < 2 ^ (7 * 10) ∧ 2 ^ (7 * (10 - 1)) ≤ (0x8000000000000000 : Value).toNat ∧
    65530 + 10 ≤ 65540 ∧ 65540 < 65531 + 10 := by decide

theorem test_witness_vencLeast : (0 : Value).toNat < 2 ^ 7 ∧ (300 : Value).toNat < 2 ^ (7 * 2) := by decide

theorem test_witness_vdec :
    (holding 65537 [0xac, 0x02, 0x7f]).addr.toNat + (holding 65537 [0xac, 0x02, 0x7f]).len.toNat ≤ 65540 ∧
    2 ≤ (holding 65537 [0xac, 0x02, 0x7f]).len.toNat ∧
    (holding 65537 [0xac, 0x02, 0x7f]).varintAt 65537 2 ∧
    (holding 65537 [0xac, 0x02, 0x7f]).varintValueAt 65537 2 < 2 ^ 64 := by
  refine ⟨by decide, by decide, ⟨by decide, fun k hk => ?_, by decide⟩, by decide⟩
  obtain rfl : k = 0 := by omega
  decide

theorem test_witness_vdecOverrun :
    State.windowEnd { State.reset with addr := 65540 } ≤ 65540 ∧ (holding 0 [0x80, 0x80]).windowEnd ≤ 65540 ∧
    ∀ k, k < (holding 0 [0x80, 0x80]).len.toNat → ((holding 0 [0x80, 0x80]).bufByte (0 + k)).getLsbD 7 = true := by
  decide

/-- V-D08. -/
def overflowing : List Byte := [0xff, 0xff, 0xff, 0xff, 0xff, 0xff, 0xff, 0xff, 0xff, 0x02]

theorem test_witness_vdecOverflow :
    (holding 0 overflowing).windowEnd ≤ 65540 ∧ 10 ≤ (holding 0 overflowing).len.toNat ∧
    (holding 0 overflowing).varintAt 0 10 ∧ 2 ^ 64 ≤ (holding 0 overflowing).varintValueAt 0 10 := by
  refine ⟨by decide, by decide, ⟨by decide, ?_, by decide⟩, by decide⟩
  have h : ∀ k, k < 9 → varintMore ((holding 0 overflowing).bufByte (0 + k)) = true := by decide
  exact fun k hk => h k (by omega)

theorem test_witness_vencThenVdec :
    exec .venc { State.reset with val := 300 } = .next (after .venc { State.reset with val := 300 }) ∧
    (after .venc { State.reset with val := 300 }).status = 0x2 :=
  ⟨exec_after _ _, by decide⟩

/-! ## Witnesses: the framer -/

theorem test_witness_ofdec :
    (holding 65535 [0x40, 0x00, 0x00, 0x00, 0x00]).addr.toNat + 5 ≤ 65540 ∧
    (holding 65535 [0x40, 0x00, 0x00, 0x00, 0x00]).bufByte 65535 = 0x40 ∧
    (holding 65535 [0x41, 0x00, 0x00, 0x00, 0x00]).bufByte 65535 ≠ 0x40 := by decide

theorem test_witness_ofencThenOfdec :
    exec .ofenc { State.reset with addr := 65535 } = .next (after .ofenc { State.reset with addr := 65535 }) ∧
    (after .ofenc { State.reset with addr := 65535 }).status = 0x2 :=
  ⟨exec_after _ _, by decide⟩

/-- The last address at which a header of record_type 2, of 20 bytes, fits, and the next one. -/
theorem test_witness_henc :
    (headerBytes { rtype := 2, uuid := 0, unk1 := 0, unk2 := 0, psize := 0, pcrc := 0 }).length = 20 ∧
    65520 + 20 ≤ 65540 ∧ 65540 < 65521 + 20 ∧
    (headerBytes { rtype := 1, uuid := 0, unk1 := 0, unk2 := 0, psize := 0, pcrc := 0 }).length = 26 := by
  decide

theorem test_witness_hdecTypeTwo :
    (holding 0 headerF2).windowEnd ≤ 65540 ∧ (holding 0 headerF2).prologueGood ∧
    (holding 0 headerF2).bufByte (0 + 1) = 2 := by
  unfold State.prologueGood
  decide

theorem test_witness_hdecWithTail :
    (holding 0 headerF1).windowEnd ≤ 65540 ∧ (holding 0 headerF1).prologueGood ∧
    (holding 0 headerF1).bufByte (0 + 1) ≠ 2 ∧ 24 + 1 + 5 ≤ (holding 0 headerF1).len.toNat ∧
    (holding 0 headerF1).bufByte (0 + 22) = 0x28 ∧ (holding 0 headerF1).bufByte (0 + 23 + 1) = 0x30 ∧
    (holding 0 headerF1).varintAt (0 + 23) 1 ∧ (holding 0 headerF1).varintValueAt (0 + 23) 1 < 2 ^ 64 ∧
    (holding 0 headerF1).varintAt (0 + 24 + 1) 5 ∧ (holding 0 headerF1).varintValueAt (0 + 24 + 1) 5 < 2 ^ 64 := by
  refine ⟨by decide, by unfold State.prologueGood; decide, by decide, by decide, by decide,
    by decide, ⟨by decide, fun k hk => absurd hk (by omega), by decide⟩, by decide,
    ⟨by decide, ?_, by decide⟩, by decide⟩
  have h : ∀ k, k < 4 → varintMore ((holding 0 headerF1).bufByte (25 + k)) = true := by decide
  exact fun k hk => h k (by omega)

/-- The address at which the parse of the prologue fails, as the statement `HdecReportsFirstPrologueError` gives it. -/
def prologueError (s : State) : Option Nat :=
  if s.len.toNat = 0 then some (s.addr.toNat + s.len.toNat)
  else if s.bufByte s.addr.toNat ≠ 0x08 then some s.addr.toNat
  else if s.len.toNat ≤ 2 then some (s.addr.toNat + s.len.toNat)
  else if s.bufByte (s.addr.toNat + 2) ≠ 0x12 then some (s.addr.toNat + 2)
  else if s.len.toNat ≤ 3 then some (s.addr.toNat + s.len.toNat)
  else if s.bufByte (s.addr.toNat + 3) ≠ 0x10 then some (s.addr.toNat + 3)
  else if s.len.toNat < 20 then some (s.addr.toNat + s.len.toNat)
  else none

/-- V-H06, V-H01, V-H07, a window of 2, V-H02, V-H08, V-H03, V-H09, V-H10: each case of the chain. -/
theorem test_witness_hdecPrologue :
    (holding 0 headerF1).windowEnd ≤ 65540 ∧
    prologueError (holding 0 []) = some 0 ∧
    prologueError (holding 0 (headerF1.set 0 0x09)) = some 0 ∧
    prologueError (holding 0 (headerF1.take 1)) = some 1 ∧
    prologueError (holding 0 (headerF1.take 2)) = some 2 ∧
    prologueError (holding 0 (headerF1.set 2 0x13)) = some 2 ∧
    prologueError (holding 0 (headerF1.take 3)) = some 3 ∧
    prologueError (holding 0 (headerF1.set 3 0x11)) = some 3 ∧
    prologueError (holding 0 (headerF1.take 4)) = some 4 ∧
    prologueError (holding 0 (headerF1.take 19)) = some 19 := by decide

/-- A window in BUF with a good prologue of a record_type other than 2. -/
def goodPrologue (s : State) : Prop :=
  s.addr.toNat + s.len.toNat ≤ 65540 ∧ s.prologueGood ∧ s.bufByte (s.addr.toNat + 1) ≠ 2

/-- V-H11, V-H13 and V-H04: the tail's windows of 20 and 22 bytes, and a wrong size tag. -/
theorem test_witness_hdecTail :
    goodPrologue (holding 0 (headerF1.take 20)) ∧
    (holding 0 (headerF1.take 20)).len.toNat ≤ 22 ∧
    goodPrologue (holding 0 (headerF1.take 22)) ∧ (holding 0 (headerF1.take 22)).len.toNat ≤ 22 ∧
    goodPrologue (holding 0 (headerF1.set 22 0x29)) ∧ ¬ (holding 0 (headerF1.set 22 0x29)).len.toNat ≤ 22 ∧
    (holding 0 (headerF1.set 22 0x29)).bufByte (0 + 22) ≠ 0x28 := by
  unfold goodPrologue State.prologueGood
  decide

/-- V-F1 with its payload_size varint replaced by V-D08's. -/
def headerBigSize : List Byte := headerF1.take 23 ++ overflowing ++ headerF1.drop 24

/-- V-H14 (a window of 23), V-H15 (a window of 24), V-H05 (a wrong crc tag), and a payload_size of 2^64 or more. -/
theorem test_witness_hdecSize :
    (goodPrologue (holding 0 (headerF1.take 23)) ∧ 23 ≤ (holding 0 (headerF1.take 23)).len.toNat ∧
      (holding 0 (headerF1.take 23)).bufByte (0 + 22) = 0x28 ∧
      ∀ k, 23 ≤ k → k < (holding 0 (headerF1.take 23)).len.toNat →
        ((holding 0 (headerF1.take 23)).bufByte (0 + k)).getLsbD 7 = true) ∧
    (goodPrologue (holding 0 (headerF1.take 24)) ∧ (holding 0 (headerF1.take 24)).len.toNat = 23 + 1 ∧
      (holding 0 (headerF1.take 24)).varintAt (0 + 23) 1 ∧
      (holding 0 (headerF1.take 24)).varintValueAt (0 + 23) 1 < 2 ^ 64) ∧
    (holding 0 (headerF1.set 24 0x31)).bufByte (0 + 23 + 1) ≠ 0x30 ∧
    (goodPrologue (holding 0 headerBigSize) ∧ 23 + 10 ≤ (holding 0 headerBigSize).len.toNat ∧
      (holding 0 headerBigSize).varintAt (0 + 23) 10 ∧
      2 ^ 64 ≤ (holding 0 headerBigSize).varintValueAt (0 + 23) 10) := by
  refine ⟨⟨by unfold goodPrologue State.prologueGood; decide, by decide, by decide, fun k h1 h2 => ?_⟩,
    ⟨by unfold goodPrologue State.prologueGood; decide, by decide,
      ⟨by decide, fun k hk => absurd hk (by omega), by decide⟩, by decide⟩, by decide,
    ⟨by unfold goodPrologue State.prologueGood; decide, by decide, ⟨by decide, ?_, by decide⟩, by decide⟩⟩
  · have h3 : (holding 0 (headerF1.take 23)).len.toNat = 23 := by decide
    omega
  · have h : ∀ k, k < 9 → varintMore ((holding 0 headerBigSize).bufByte (23 + k)) = true := by decide
    exact fun k hk => h k (by omega)

/-- V-F1 with its payload_crc varint replaced by V-D08's. -/
def headerBigCrc : List Byte := headerF1.take 25 ++ overflowing

/-- V-H16 (a window of 25), V-H17 (a window of 29), and a payload_crc of 2^64 or more. -/
theorem test_witness_hdecCrcVarint :
    (goodPrologue (holding 0 (headerF1.take 25)) ∧ 24 + 1 ≤ (holding 0 (headerF1.take 25)).len.toNat ∧
      (holding 0 (headerF1.take 25)).bufByte (0 + 23 + 1) = 0x30 ∧
      (holding 0 (headerF1.take 25)).varintAt (0 + 23) 1) ∧
    (∀ k, k < 4 → ((holding 0 (headerF1.take 29)).bufByte (25 + k)).getLsbD 7 = true) ∧
    (goodPrologue (holding 0 headerBigCrc) ∧ 24 + 1 + 10 ≤ (holding 0 headerBigCrc).len.toNat ∧
      (holding 0 headerBigCrc).varintAt (0 + 24 + 1) 10 ∧
      2 ^ 64 ≤ (holding 0 headerBigCrc).varintValueAt (0 + 24 + 1) 10) := by
  refine ⟨⟨by unfold goodPrologue State.prologueGood; decide, by decide, by decide,
      ⟨by decide, fun k hk => absurd hk (by omega), by decide⟩⟩, by decide,
    ⟨by unfold goodPrologue State.prologueGood; decide, by decide, ⟨by decide, ?_, by decide⟩, by decide⟩⟩
  have h : ∀ k, k < 9 → varintMore ((holding 0 headerBigCrc).bufByte (25 + k)) = true := by decide
  exact fun k hk => h k (by omega)

theorem test_witness_hencThenHdec :
    exec .henc { State.reset with rtype := 7, psize := 300 } =
      .next (after .henc { State.reset with rtype := 7, psize := 300 }) ∧
    (after .henc { State.reset with rtype := 7, psize := 300 }).status = 0x2 ∧
    (after .henc { State.reset with rtype := 2 }).status = 0x2 :=
  ⟨exec_after _ _, by decide, by decide⟩

/-! ## Witnesses: frames -/

theorem test_witness_frames :
    checkedLength .crcByte State.reset = none ∧ exec .crcByte State.reset = .next (after .crcByte State.reset) ∧
    exec .hdec (holding 0 headerF1) = .next (after .hdec (holding 0 headerF1)) ∧
    exec .venc State.reset = .next (after .venc State.reset) :=
  ⟨rfl, exec_after _ _, exec_after _ _, exec_after _ _⟩

/-- V-D06: a window whose second byte is not read, in two states that differ there. -/
theorem test_witness_unreadBytes :
    readLength .vdec (holding 0 [0x00, 0x01]) = 1 ∧
    (∀ k, k < 1 →
      (holding 0 [0x00, 0x02]).bufByte (0 + k) = (holding 0 [0x00, 0x01]).bufByte (0 + k) ∧
      (holding 0 [0x00, 0x02]).written (0 + k) = (holding 0 [0x00, 0x01]).written (0 + k)) ∧
    (holding 0 [0x00, 0x02]).bufByte 1 ≠ (holding 0 [0x00, 0x01]).bufByte 1 := by decide

/-! ## Witnesses: model faults, hazards, the host's actions, reset -/

theorem test_witness_faultIsSticky :
    step { State.reset with fault := some .readUnwritten, inputs := [.powerOn] } =
      .next { State.reset with fault := some .readUnwritten, powerOns := 1 } := rfl

/-- V-X11: a host write while BUSY = 1. -/
theorem test_witness_hostFault :
    ∃ t, step { pending .nop State.reset with inputs := asmWr .val 1 } = .next t ∧
      t.fault = some .hostAccessWhileBusy :=
  ⟨_, rfl, rfl⟩

/-- A pending CRC16 of a byte not written. -/
theorem test_witness_readFault :
    (pending .crc16 { State.reset with len := 1 }).engineNext ∧
    (pending .crc16 { State.reset with len := 1 }).busy = true ∧
    decode (pending .crc16 { State.reset with len := 1 }).cmd = .ok .crc16 ∧
    ¬ (pending .crc16 { State.reset with len := 1 }).readsWritten .crc16 :=
  ⟨.inl rfl, by decide, by decide, by unfold State.readsWritten; decide⟩

theorem test_witness_busyHostWrites :
    State.busy { pending .nop State.reset with inputs := [.host (.regWrite 255 0)] } = true ∧
    isHostWrite (.host (.regWrite 255 0)) = true ∧ isHostWrite (.host (.bufWrite 65540 0)) = true := by decide

theorem test_witness_busyHostReads :
    State.busy { pending .nop State.reset with inputs := [.host (.regRead 17)] } = true ∧
    regOfNumber 17 = some .pcrc ∧ (17 : BitVec 8) ≠ 1 ∧ 18 ≤ (18#8).toNat := by decide

/-- Reads of BUF, in it and beyond its end, and of a reserved number, while BUSY = 1. -/
theorem test_witness_busyBufReads :
    State.busy { pending .nop State.reset with inputs := asmRb 0xFFFFFFFF } = true ∧
    asmRb 0xFFFFFFFF = [.host (.bufRead 0xFFFFFFFF)] ∧
    State.busy { pending .nop State.reset with inputs := [.host (.regRead 18)] } = true := by decide

/-- V-X11, then the engine's turn. -/
theorem test_witness_disturbed :
    State.engineNext { pending .nop State.reset with disturbed := true, fault := some .hostAccessWhileBusy } ∧
    State.busy { pending .nop State.reset with disturbed := true } = true ∧
    ∃ t, step { pending .nop State.reset with inputs := asmWr .val 1 } = .next t ∧ t.disturbed = true :=
  ⟨.inl rfl, by decide, _, rfl, rfl⟩

/-- R200: each of the seven codes can be drawn, and no other is. -/
theorem test_drawnCodes :
    ([0, 1, 2, 3, 4, 5, 6, 255] : List Lane).map (fun v => completionCode (drawnError v)) =
      [0x01, 0x02, 0x03, 0x04, 0x05, 0x06, 0x00, 0x04] := by decide

theorem test_witness_registerWrites :
    State.busy { State.reset with inputs := asmWr .uuid 5 } = false ∧ regReadOnly .uuid = false ∧ Reg.uuid ≠ .cmd ∧
    asmWr .uuid 5 = [.host (.regWrite (regNumber .uuid) 5)] := by decide

/-- R100: reads of the first and the last register while BUSY = 0. -/
theorem test_register_reads :
    stepped { State.reset with cmd := 0x23, inputs := [.host (.regRead 0)] } =
      { State.reset with cmd := 0x23, reply := some (.reg 0x23) } ∧
    stepped { State.reset with pcrc := 0xFFFFFFFF, inputs := [.host (.regRead 17)] } =
      { State.reset with pcrc := 0xFFFFFFFF, reply := some (.reg 0xFFFFFFFF) } := by decide

/-- The first and the last reserved number, and the last register. -/
theorem test_witness_reserved :
    State.busy { State.reset with inputs := [.host (.regRead 18)] } = false ∧
    18 ≤ (18#8).toNat ∧ 18 ≤ (255#8).toNat ∧ ¬ 18 ≤ (17#8).toNat := by decide

/-- The last address of BUF and the first beyond it. -/
theorem test_witness_bufWrites :
    State.busy { State.reset with inputs := asmWb 65539 7 } = false ∧
    asmWb 65539 7 = [.host (.bufWrite 65539 7)] ∧ (65539#32).toNat < 65540 ∧ 65540 ≤ (65540#32).toNat := by decide

/-- V-X10. -/
theorem test_crcResult_read :
    stepped { State.reset with crc := 0xBCDD, inputs := asmRd .crcResult } =
      { State.reset with crc := 0xBCDD, reply := some (.reg 0xBB3D) } := by decide

/-- R232: a pending VENC of two bytes at 1, with bytes 0 to 3 written, is abandoned: bytes 1 and 2 become unwritten. -/
theorem test_reset_abandons :
    ∃ t, step { pending .venc (holding 0 [0x0a, 0x0b, 0x0c, 0x0d]) with addr := 1, val := 300, inputs := [.reset] } =
        .next t ∧ t.buf = [(0, 0x0a), (3, 0x0d)] ∧ t.status = 0 :=
  ⟨_, rfl, by decide, rfl⟩

/-- The write range of that command is in BUF; of the same command at 65539 it is not. -/
theorem test_witness_abandonedRange :
    writeLength .venc { State.reset with val := 300 } = 2 ∧ 1 + 2 ≤ 65540 ∧ 65540 < 65539 + 2 := by decide

/-- A pending word that stands for no command, and a reset: it has no write range. -/
theorem test_witness_abandonedIllegalWord :
    State.busy { holding 0 [0x0a] with cmd := 0x6, status := 0x1, inputs := [.reset] } = true ∧
    decode 0x6 = .error .reservedOpcode ∧
    ∃ t, step { holding 0 [0x0a] with cmd := 0x6, status := 0x1, inputs := [.reset] } = .next t ∧ t.buf = [(0, 0x0a)] :=
  ⟨by decide, by decide, _, rfl, by decide⟩

/-- A state that is not reset's, and a step from it, under the invariant. -/
theorem test_witness_invariant :
    (holding 0 [0x80]).Inv ∧ step (holding 0 [0x80]) = .next (holding 0 [0x80]) :=
  ⟨⟨by decide, rfl, fun h => absurd h (by decide), by decide, fun _ _ => rfl, fun h => absurd h (by decide)⟩,
    rfl⟩

end Sys2Proof.Tests
end

section
/-!
SUPPORT. What STATUS, ERRCODE and ERRADDR show at a completion, what a command changes and leaves alone, and what a
host action while BUSY = 0 does to a register (10_state.md R20 to R35, 40_control.md R100 to R104).
-/

namespace Sys2Proof.Machine

/-! ### What a completion shows (R104, R200) -/

/-- The two forms of R104: success, or one of the six errors of R200, with error address 0 for IllegalCommand (R27). -/
def State.ShowsCompletion (t : State) : Prop :=
  (t.status = statusDone ∧ t.errcode = 0 ∧ t.erraddr = 0) ∨
    ∃ k, t.status = statusError ∧ t.errcode = errCode k ∧ (k = .illegalCommand → t.erraddr = 0)

theorem State.ShowsCompletion.succeed (s : State) : s.succeed.ShowsCompletion := .inl ⟨rfl, rfl, rfl⟩

theorem State.ShowsCompletion.report {s : State} {k : ErrKind} {a : Nat} (h : k = .illegalCommand → a = 0) :
    (s.report k a).ShowsCompletion :=
  .inr ⟨k, rfl, rfl, fun hk => by simp [h hk]⟩

/-- A completion that shows IllegalCommand has error address 0. -/
theorem State.ShowsCompletion.erraddr_of_illegalCommand {t : State} (h : t.ShowsCompletion)
    (hc : t.errcode = errCode .illegalCommand) : t.erraddr = 0 := by
  obtain ⟨-, -, ha⟩ | ⟨k, -, hk, ha⟩ := h
  · exact ha
  · exact ha (errCode_inj (hk.symm.trans hc))

/-- The two forms in the numbers of R25 and R200. -/
theorem State.ShowsCompletion.codes {t : State} (h : t.ShowsCompletion) :
    (t.status = 0x2 ∧ t.errcode = 0 ∧ t.erraddr = 0) ∨
      (t.status = 0x6 ∧ 1 ≤ t.errcode.toNat ∧ t.errcode.toNat ≤ 6 ∧ (t.errcode = 0x06 → t.erraddr = 0)) := by
  have hill := h.erraddr_of_illegalCommand
  obtain hok | ⟨k, hs, hk, -⟩ := h
  · exact .inl hok
  · exact .inr ⟨hs, hk ▸ (errCode_range k).1, hk ▸ (errCode_range k).2, hill⟩

/-! ### Only REFLECT raises IllegalCommand, and with error address 0 (R126, R202) -/

/-- A decoder that raises no IllegalCommand. -/
def NeverIllegal {α : Type} (x : Except Raise α) : Prop := ∀ e, x = .error e → e.kind ≠ .illegalCommand

theorem NeverIllegal.ok {α : Type} (a : α) : NeverIllegal (.ok a) := fun _ h => nomatch h

theorem NeverIllegal.error {α : Type} {e : Raise} (h : e.kind ≠ .illegalCommand) :
    NeverIllegal (.error e : Except Raise α) := by
  rintro _ ⟨⟩
  exact h

theorem NeverIllegal.bind {α β : Type} {x : Except Raise α} {f : α → Except Raise β} (hx : NeverIllegal x)
    (hf : ∀ a, NeverIllegal (f a)) : NeverIllegal (x >>= f) := by
  cases x with
  | error e => exact .error (hx e rfl)
  | ok a => exact hf a

theorem neverIllegal_expect (rd : Nat → Byte) (stop : Nat) (c : Byte) (p : Nat) :
    NeverIllegal (expect rd stop c p) := by
  unfold expect
  split
  · exact .error nofun
  · split
    · exact .error nofun
    · exact .ok _

theorem neverIllegal_take (rd : Nat → Byte) (stop p : Nat) : NeverIllegal (take rd stop p) := by
  unfold take
  split
  · exact .error nofun
  · exact .ok _

theorem neverIllegal_takeUuid (rd : Nat → Byte) (stop p : Nat) : NeverIllegal (takeUuid rd stop p) := by
  unfold takeUuid
  split
  · exact .error nofun
  · exact .ok _

theorem neverIllegal_vdecLoop (rd : Nat → Byte) (fuel p k acc : Nat) :
    NeverIllegal (vdecLoop rd fuel p k acc) := by
  induction fuel generalizing p k acc with
  | zero => exact .error nofun
  | succ fuel ih =>
    rw [vdecLoop]
    split
    · exact ih _ _ _
    · exact .ok _

theorem neverIllegal_vdec (rd : Nat → Byte) (p stop : Nat) : NeverIllegal (vdec rd p stop) := by
  unfold vdec
  split
  · rename_i e he
    exact .error (neverIllegal_vdecLoop _ _ _ _ _ e he)
  · split
    · exact .error nofun
    · exact .ok _

theorem neverIllegal_parseTail (rd : Nat → Byte) (stop : Nat) (rt : Byte) (u : Uuid) (p : Nat) :
    NeverIllegal (parseTail rd stop rt u p) := by
  unfold parseTail
  refine .bind (neverIllegal_take _ _ _) fun _ => ?_
  refine .bind (neverIllegal_take _ _ _) fun _ => ?_
  refine .bind (neverIllegal_expect _ _ _ _) fun _ => ?_
  refine .bind (neverIllegal_vdec _ _ _) fun _ => ?_
  refine .bind (neverIllegal_expect _ _ _ _) fun _ => ?_
  exact .bind (neverIllegal_vdec _ _ _) fun _ => .ok _

theorem neverIllegal_parseHeader (rd : Nat → Byte) (stop p : Nat) : NeverIllegal (parseHeader rd stop p) := by
  unfold parseHeader
  refine .bind (neverIllegal_expect _ _ _ _) fun _ => ?_
  refine .bind (neverIllegal_take _ _ _) fun _ => ?_
  refine .bind (neverIllegal_expect _ _ _ _) fun _ => ?_
  refine .bind (neverIllegal_expect _ _ _ _) fun _ => ?_
  refine .bind (neverIllegal_takeUuid _ _ _) fun _ => ?_
  simp only
  split
  · exact .ok _
  · exact neverIllegal_parseTail _ _ _ _ _

theorem NeverIllegal.ranged {b : Body} (s : State) (n : Nat) (hb : NeverIllegal b) :
    NeverIllegal (s.ranged n b) := by
  unfold State.ranged
  split
  · exact hb
  · exact .error nofun

theorem neverIllegal_vdecBody (s : State) : NeverIllegal (vdecBody s) := by
  refine .ranged _ _ ?_
  split
  · rename_i e he
    exact .error (neverIllegal_vdec _ _ _ e he)
  · exact .ok _

theorem neverIllegal_ofdecBody (s : State) : NeverIllegal (ofdecBody s) := by
  refine .ranged _ _ ?_
  split
  · exact .error nofun
  · exact .ok _

theorem neverIllegal_hdecBody (s : State) : NeverIllegal (hdecBody s) := by
  refine .ranged _ _ ?_
  split
  · rename_i e he
    exact .error (neverIllegal_parseHeader _ _ _ e he)
  · exact .ok _

theorem bodyOf_neverIllegal {i : Instr} (s : State) (h : ∀ w, i ≠ .reflect w) : NeverIllegal (bodyOf i s) := by
  cases i
  case nop | crcInit | crcByte => exact .ok _
  case crcBuf | crc16 | venc | ofenc | henc => exact .ranged _ _ (.ok _)
  case reflect w => exact absurd rfl (h w)
  case vdec => exact neverIllegal_vdecBody s
  case ofdec => exact neverIllegal_ofdecBody s
  case hdec => exact neverIllegal_hdecBody s

theorem reflectBody_error {w : BitVec 7} {s : State} {e : Raise} (h : reflectBody w s = .error e) :
    e = { kind := .illegalCommand, addr := 0, readTo := 0 } := by
  unfold reflectBody at h
  split at h <;> cases h
  rfl

/-- An IllegalCommand that a command raises has error address 0 (R27). -/
theorem bodyOf_illegal_addr {i : Instr} {s : State} {e : Raise} (h : bodyOf i s = .error e)
    (hk : e.kind = .illegalCommand) : e.addr = 0 := by
  by_cases hi : ∃ w, i = .reflect w
  · obtain ⟨w, rfl⟩ := hi
    rw [reflectBody_error h]
  · exact absurd hk (bodyOf_neverIllegal s (fun w hw => hi ⟨w, hw⟩) e h)

theorem exec_showsCompletion {i : Instr} {s t : State} (h : exec i s = .next t) : t.ShowsCompletion := by
  rw [exec_eq_complete] at h
  obtain ⟨c, -, rfl⟩ | ⟨e, he, rfl⟩ := State.complete_cases h
  · exact .succeed c.state
  · exact .report (s := s) (bodyOf_illegal_addr he)

theorem State.completeDisturbed_showsCompletion (s : State) : s.completeDisturbed.ShowsCompletion := by
  obtain h | ⟨k, a, h, ha⟩ := s.completeDisturbed_cases
  · exact h ▸ .succeed _
  · exact h ▸ .report ha

/-! ### What a command changes (R20, R62, R74) -/

/-- A state that keeps every field but those that commands write. -/
theorem CommitKeeps.eq_update {s t : State} (h : CommitKeeps s t) :
    t = { s with
      crc := t.crc, val := t.val, cnt := t.cnt, hcrc := t.hcrc, hlen := t.hlen, rtype := t.rtype, uuid := t.uuid,
      unk1 := t.unk1, unk2 := t.unk2, psize := t.psize, pcrc := t.pcrc, buf := t.buf } := by
  cases t
  cases h
  simp_all

/-- No command writes a field but the result registers, the completion's registers, BUF and the fault. -/
theorem exec_eq_update {i : Instr} {s t : State} (h : exec i s = .next t) :
    t = { s with
      status := t.status, errcode := t.errcode, erraddr := t.erraddr, crc := t.crc, val := t.val, cnt := t.cnt,
      hcrc := t.hcrc, hlen := t.hlen, rtype := t.rtype, uuid := t.uuid, unk1 := t.unk1, unk2 := t.unk2,
      psize := t.psize, pcrc := t.pcrc, buf := t.buf, fault := t.fault } := by
  rw [exec_eq_complete] at h
  obtain ⟨c, hc, rfl⟩ | ⟨e, -, rfl⟩ := State.complete_cases h
  · rw [(bodyOf_keeps hc).eq_update]
    rfl
  · rfl

/-- The commands that read BUF (R62). -/
def readers : List Instr := [.crcBuf, .crc16, .vdec, .ofdec, .hdec]

/-- The commands that write BUF (R62). -/
def writers : List Instr := [.venc, .ofenc, .henc]

/-- The commands that write CRC (R28). -/
def crcWriters : List Instr := [.crcInit, .crcByte, .crcBuf, .crc16]

/-- Which command alone writes each result register and BUF. -/
structure WritesOnlyItsOwn (i : Instr) (s t : State) : Prop where
  crc : i ∉ crcWriters → t.crc = s.crc
  val : i ≠ .vdec → (∀ w, i ≠ .reflect w) → t.val = s.val
  cnt : checkedLength i s = none → t.cnt = s.cnt
  hcrc : i ≠ .ofdec → t.hcrc = s.hcrc
  hlen : i ≠ .ofdec → t.hlen = s.hlen
  header : i ≠ .hdec → t.header = s.header
  buf : i ∉ writers → t.buf = s.buf
  outside : ∀ a, a < s.base ∨ s.base + writeLength i s ≤ a → Memory.lookup t.buf a = Memory.lookup s.buf a

/-- A commit of CNT and a run of bytes at ADDR alone, the commit of the three encoders. -/
theorem writesOnlyItsOwn_memWrite {i : Instr} {s : State} {bs : List Byte} (n : Word)
    (hi : i ∈ writers) (hl : writeLength i s = bs.length)
    (hk : checkedLength i s ≠ none) : WritesOnlyItsOwn i s { s.memWrite s.base bs with cnt := n } where
  crc _ := rfl
  val _ _ := rfl
  cnt h := absurd h hk
  hcrc _ := rfl
  hlen _ := rfl
  header _ := rfl
  buf h := absurd hi h
  outside _ h := Memory.lookup_storeBytes_outside bs s.buf (hl ▸ h)

theorem bodyOf_writesOnlyItsOwn {i : Instr} {s : State} {c : Commit} (h : bodyOf i s = .ok c) :
    WritesOnlyItsOwn i s c.state := by
  cases i <;> simp only [bodyOf] at h
  case nop | crcInit | crcByte => cases h; constructor <;> simp [State.header, crcWriters]
  case reflect => unfold reflectBody at h; split at h <;> cases h; constructor <;> simp [State.header]
  case crcBuf | crc16 =>
    obtain ⟨-, h⟩ := State.ranged_ok h
    cases h
    constructor <;> simp [State.header, checkedLength, crcWriters]
  case vdec | ofdec | hdec =>
    obtain ⟨-, h⟩ := State.ranged_ok h
    split at h <;> cases h
    constructor <;> simp [State.header, checkedLength]
  case venc | ofenc | henc =>
    obtain ⟨-, h⟩ := State.ranged_ok h
    cases h
    exact writesOnlyItsOwn_memWrite _ (by decide) rfl nofun

theorem exec_writesOnlyItsOwn {i : Instr} {s t : State} (h : exec i s = .next t) : WritesOnlyItsOwn i s t := by
  rw [exec_eq_complete] at h
  obtain ⟨c, hc, rfl⟩ | ⟨e, -, rfl⟩ := State.complete_cases h
  · obtain ⟨hcrc, hval, hcnt, hhcrc, hhlen, hheader, hbuf, hout⟩ := bodyOf_writesOnlyItsOwn hc
    exact ⟨hcrc, hval, hcnt, hhcrc, hhlen, hheader, hbuf, hout⟩
  · constructor <;> intros <;> rfl

/-- A command outside the five decoders and CRC folds reads no byte of BUF. -/
theorem readLength_eq_zero {i : Instr} (s : State)
    (h : i ∉ readers) : readLength i s = 0 := by
  have hr : bodyReadTo (bodyOf i s) = 0 := by
    cases i
    case nop | crcInit | crcByte => rfl
    case reflect w => simp only [bodyOf, reflectBody]; split <;> rfl
    case venc | ofenc | henc => exact (State.ranged_readTo _ _ _).trans (ite_self 0)
    all_goals exact absurd (by decide) h
  simp [readLength, hr]

/-- A command that reads no byte of BUF sets no fault (R231, R243). -/
theorem exec_fault_of_no_read {i : Instr} {s t : State} (h : exec i s = .next t)
    (hi : i ∉ readers) : t.fault = s.fault := by
  rw [exec_fault h, readLength_eq_zero s hi, State.faultAfterReads_none]

/-- Every byte of BUF outside a command's write range is as it was. -/
theorem exec_bytes_outside {i : Instr} {s t : State} (h : exec i s = .next t) {a : Nat}
    (ha : a < s.base ∨ s.base + writeLength i s ≤ a) : t.bufByte a = s.bufByte a ∧ t.written a = s.written a := by
  have hl := (exec_writesOnlyItsOwn h).outside a ha
  have hp : t.powerOns = s.powerOns := by rw [exec_eq_update h]
  have hs : t.spoiled = s.spoiled := by rw [exec_eq_update h]
  simp [State.bufByte, State.written, State.unlistedByte, hl, hp, hs]

theorem writeLength_eq_zero {i : Instr} (s : State) (hi : i ∉ writers) : writeLength i s = 0 := by
  cases i
  case venc | ofenc | henc => exact absurd (by decide) hi
  all_goals rfl

/-- A command that writes no BUF byte leaves every byte as it was. -/
theorem exec_bytes_kept {i : Instr} {s t : State} (h : exec i s = .next t) (hi : i ∉ writers) (a : Nat) :
    t.bufByte a = s.bufByte a ∧ t.written a = s.written a :=
  exec_bytes_outside h (by rw [writeLength_eq_zero s hi]; exact Nat.lt_or_ge a s.base)

/-- The record registers, one by one, from the header they make (R33). -/
theorem State.header_eq_iff {s t : State} : t.header = s.header ↔
    t.rtype = s.rtype ∧ t.uuid = s.uuid ∧ t.unk1 = s.unk1 ∧ t.unk2 = s.unk2 ∧ t.psize = s.psize ∧
      t.pcrc = s.pcrc := by
  simp [State.header]

end Sys2Proof.Machine
end

section
/-!
SUPPORT. Registers by number, and the host's register actions while BUSY = 0 (10_state.md R20 to R22, 20_memory.md R57,
40_control.md R100).
-/

namespace Sys2Proof.Machine

/-! ### Registers by number (R20, R21) -/

@[simp] theorem regOfNumber_regNumber (r : Reg) : regOfNumber (regNumber r) = some r := by cases r <;> rfl

theorem regOfNumber_reserved {n : BitVec 8} (h : 18 ≤ n.toNat) : regOfNumber n = none :=
  List.getElem?_eq_none h

@[simp] theorem State.regValue_regNumber (s : State) (r : Reg) : s.regValue (regNumber r) = s.readReg r := by
  simp [State.regValue]

theorem State.regValue_reserved (s : State) {n : BitVec 8} (h : 18 ≤ n.toNat) : s.regValue n = 0 := by
  simp [State.regValue, regOfNumber_reserved h]

theorem State.readReg_reset (r : Reg) : State.reset.readReg r = 0 := by cases r <;> decide

theorem State.regValue_reset (n : BitVec 8) : State.reset.regValue n = 0 := by
  unfold State.regValue
  split
  · rfl
  · exact State.readReg_reset _

/-! ### A register read after a register write (R57) -/

theorem State.readReg_setReg_same (s : State) {r : Reg} (v : Lane) (h : r ≠ .crcResult) :
    ((s.setReg r v).readReg r).toNat = v.toNat % 2 ^ regWidth r := by
  have fits : ∀ w ≤ 128, ((v.setWidth w).setWidth 128).toNat = v.toNat % 2 ^ w := fun w hw => by
    rw [BitVec.toNat_setWidth_of_le hw, BitVec.toNat_setWidth]
  cases r
  case crcResult => exact absurd rfl h
  case uuid => exact (Nat.mod_eq_of_lt v.isLt).symm
  all_goals exact fits _ (by decide)

/-- CRC_RESULT is a view of CRC, so a write to CRC changes it (R29). -/
theorem State.readReg_setReg_ne (s : State) {r q : Reg} (v : Lane) (h : q ≠ r) (hv : q = .crcResult → r ≠ .crc) :
    (s.setReg r v).readReg q = s.readReg q := by
  cases r
  case crc =>
    cases q
    case crc => exact absurd rfl h
    case crcResult => exact absurd rfl (hv rfl)
    all_goals rfl
  all_goals cases q <;> simp [State.setReg, State.readReg, State.crcResult] at h ⊢

theorem State.setReg_status {r : Reg} (s : State) (v : Lane) (h : r ≠ .status) :
    (s.setReg r v).status = s.status := by
  cases r
  case status => exact absurd rfl h
  all_goals rfl

theorem State.setReg_errcode {r : Reg} (s : State) (v : Lane) (h : r ≠ .errcode) :
    (s.setReg r v).errcode = s.errcode := by
  cases r
  case errcode => exact absurd rfl h
  all_goals rfl

theorem State.setReg_erraddr {r : Reg} (s : State) (v : Lane) (h : r ≠ .erraddr) :
    (s.setReg r v).erraddr = s.erraddr := by
  cases r
  case erraddr => exact absurd rfl h
  all_goals rfl

/-! ### The host's register actions while BUSY = 0 (R22, R100, R101) -/

theorem State.regWriteIdle_reserved (s : State) {n : BitVec 8} (v : Lane) (h : 18 ≤ n.toNat) :
    s.regWriteIdle n v = s := by
  simp [State.regWriteIdle, regOfNumber_reserved h]

theorem State.regWriteIdle_readOnly (s : State) {r : Reg} (v : Lane) (h : regReadOnly r = true) :
    s.regWriteIdle (regNumber r) v = s := by
  have hc : r ≠ .cmd := by rintro rfl; cases h
  simp [State.regWriteIdle, hc, h]

theorem State.regWriteIdle_writable (s : State) {r : Reg} (v : Lane) (h : regReadOnly r = false) (hc : r ≠ .cmd) :
    s.regWriteIdle (regNumber r) v = s.setReg r v := by
  simp [State.regWriteIdle, hc, h]

/-- What a host write to a register while BUSY = 0 can do. -/
theorem State.regWriteIdle_cases (s : State) (n : BitVec 8) (v : Lane) :
    s.regWriteIdle n v = s ∨ s.regWriteIdle n v = s.accept (v.setWidth 32) ∨
      ∃ r, regReadOnly r = false ∧ s.regWriteIdle n v = s.setReg r v := by
  unfold State.regWriteIdle
  split
  · exact .inl rfl
  · rename_i r _
    split
    · exact .inr (.inl rfl)
    · split
      · exact .inl rfl
      · rename_i hr
        exact .inr (.inr ⟨r, by simpa using hr, rfl⟩)

theorem step_regWrite_idle {s : State} {n : BitVec 8} {v : Lane} {ts : List Input} (hb : s.busy = false)
    (hi : s.inputs = .host (.regWrite n v) :: ts) :
    step s = .next (State.regWriteIdle { s with inputs := ts } n v) := by
  rw [step_turn hi]
  exact congrArg _ (if_neg (Bool.eq_false_iff.1 hb))

theorem step_regRead_idle {s : State} {n : BitVec 8} {ts : List Input} (hb : s.busy = false)
    (hi : s.inputs = .host (.regRead n) :: ts) :
    step s = .next { s with inputs := ts, reply := some (.reg (s.regValue n)) } := by
  rw [step_turn hi]
  exact congrArg _ (if_neg fun h => Bool.eq_false_iff.1 hb h.1)

end Sys2Proof.Machine
end

section
/-!
SUPPORT. The invariant through every turn: the host's actions, the engine's turn, a reset and a power-on.
-/

namespace Sys2Proof.Machine

/-! ### States that meet the invariant -/

/-- The invariant speaks of BUF's form, STATUS, ERRCODE, ERRADDR, the fault and the disturbed mark alone. -/
theorem State.Inv.congr {s t : State} (hs : s.Inv) (hbuf : Memory.wf t.buf) (hstatus : t.status = s.status)
    (hcode : t.errcode = s.errcode) (haddr : t.erraddr = s.erraddr) (hfault : t.fault = s.fault)
    (hdist : t.disturbed = s.disturbed) : t.Inv where
  bufForm := hbuf
  statusLegal := hstatus ▸ hs.statusLegal
  disturbedBusy := by
    simpa only [State.busy, hstatus, hfault, hdist] using hs.disturbedBusy
  codeKnown := hcode ▸ hs.codeKnown
  addrZero := by simpa only [hdist, hcode, haddr] using hs.addrZero
  errShown := by simpa only [State.done, State.err, hstatus, hcode] using hs.errShown

theorem State.Inv.of_cleared {t : State} (hbuf : Memory.wf t.buf) (hstatus : t.status = 0) (hcode : t.errcode = 0)
    (haddr : t.erraddr = 0) (hdist : t.disturbed = false) : t.Inv where
  bufForm := hbuf
  statusLegal := by rw [hstatus]; decide
  disturbedBusy h := by simp [hdist] at h
  codeKnown := by simp [hcode]
  addrZero _ _ := haddr
  errShown h := by simp [State.done, hstatus] at h

/-- A completed command (R104). -/
theorem State.Inv.of_showsCompletion {t : State} (hbuf : Memory.wf t.buf) (hdist : t.disturbed = false)
    (h : t.ShowsCompletion) : t.Inv where
  bufForm := hbuf
  statusLegal := by obtain ⟨hs, -, -⟩ | ⟨k, hs, -, -⟩ := h <;> rw [hs] <;> decide
  disturbedBusy hd := by simp [hdist] at hd
  codeKnown := by
    obtain ⟨-, hc, -⟩ | ⟨k, -, hc, -⟩ := h <;> rw [hc]
    · decide
    · exact (errCode_range k).2
  addrZero _ hz := by
    obtain hz | hz := hz
    · obtain ⟨-, -, ha⟩ | ⟨k, -, hc, -⟩ := h
      · exact ha
      · exact absurd (hc ▸ hz) (errCode_ne_zero k)
    · exact h.erraddr_of_illegalCommand hz
  errShown _ := by
    obtain ⟨hs, hc, -⟩ | ⟨k, hs, hc, -⟩ := h
    · simp [State.err, hs, hc, statusDone]
    · have hk := errCode_ne_zero k
      simpa [State.err, hs, hc, statusError] using hk

/-- With a legal STATUS, a pending command is not done (R25). -/
theorem State.Inv.not_done_of_busy {s : State} (hs : s.Inv) (hb : s.busy = true) : s.done = false := by
  have h : s.status = statusBusy := legalStatus_busy hs.statusLegal hb
  simp [State.done, h, statusBusy]

theorem State.Inv.not_disturbed_of_idle {s : State} (hs : s.Inv) (hb : s.busy = false) : s.disturbed = false := by
  rw [Bool.eq_false_iff]
  exact fun hd => Bool.eq_false_iff.1 hb (hs.disturbedBusy hd).1

/-- A pending command that a host write has just disturbed (R240): STATUS is exact, ERRADDR is free. -/
theorem State.Inv.of_disturbed {s t : State} (hs : s.Inv) (hb : s.busy = true) (hbuf : Memory.wf t.buf)
    (hstatus : t.status = s.status) (hcode : t.errcode.toNat ≤ 6) (hfault : t.fault ≠ none)
    (hdist : t.disturbed = true) : t.Inv where
  bufForm := hbuf
  statusLegal := hstatus ▸ hs.statusLegal
  disturbedBusy _ := ⟨by simpa only [State.busy, hstatus] using hb, hfault⟩
  codeKnown := hcode
  addrZero h := by simp [hdist] at h
  errShown h := by
    have hd : t.done = false := by simpa only [State.done, hstatus] using hs.not_done_of_busy hb
    simp [hd] at h

theorem firstFault_ne_none (f : Option Fault) (r : Fault) : firstFault f r ≠ none := by cases f <;> nofun

/-! ### The host's actions -/

theorem State.Inv.accept {s : State} (hs : s.Inv) (hb : s.busy = false) (w : Word) : (s.accept w).Inv where
  bufForm := hs.bufForm
  statusLegal := by simp [legalStatus]
  disturbedBusy h := by simp at h
  codeKnown := hs.codeKnown
  addrZero _ := hs.addrZero (hs.not_disturbed_of_idle hb)
  errShown h := by simp [State.done, statusBusy] at h

/-- A host write to a read/write register leaves the invariant's registers. -/
theorem State.Inv.setReg {s : State} (hs : s.Inv) {r : Reg} (v : Lane) (hr : regReadOnly r = false) :
    (s.setReg r v).Inv := by
  refine hs.congr (by simpa using hs.bufForm) (State.setReg_status _ _ ?_) (State.setReg_errcode _ _ ?_)
    (State.setReg_erraddr _ _ ?_) (by simp) (by simp)
  all_goals rintro rfl; cases hr

theorem State.Inv.regWriteIdle {s : State} (hs : s.Inv) (hb : s.busy = false) (n : BitVec 8) (v : Lane) :
    (s.regWriteIdle n v).Inv := by
  obtain h | h | ⟨r, hr, h⟩ := s.regWriteIdle_cases n v <;> rw [h]
  · exact hs
  · exact hs.accept hb _
  · exact hs.setReg v hr

/-- A host write to a register while BUSY disturbs the pending command and draws a register other than STATUS. -/
theorem State.regWriteBusy_eq (s : State) (n : BitVec 8) :
    ∃ r v d, r ≠ .status ∧ s.regWriteBusy n = { s.disturb.setReg r v with draws := d } := by
  have hd : s.disturb = { s.disturb.setReg .crcResult 0 with draws := s.draws } := rfl
  unfold State.regWriteBusy
  split
  · exact ⟨.crcResult, _, _, nofun, hd⟩
  · rename_i r _
    split
    · exact ⟨.crcResult, _, _, nofun, hd⟩
    · split
      · exact ⟨.crc, _, _, nofun, rfl⟩
      · rename_i hr _
        exact ⟨r, _, _, hr, rfl⟩

theorem State.Inv.regWriteBusy {s : State} (hs : s.Inv) (hb : s.busy = true) (n : BitVec 8) :
    (s.regWriteBusy n).Inv := by
  have hcode := State.regWriteBusy_errcode_le n hs.codeKnown
  obtain ⟨r, v, d, hr, h⟩ := s.regWriteBusy_eq n
  rw [h] at hcode ⊢
  exact hs.of_disturbed hb (by simpa using hs.bufForm) (State.setReg_status _ _ hr) hcode
    (by simpa using firstFault_ne_none _ _) (by simp)

theorem State.Inv.bufWriteBusy {s : State} (hs : s.Inv) (hb : s.busy = true) : s.bufWriteBusy.Inv :=
  hs.of_disturbed hb (Memory.wf_forget _ hs.bufForm) rfl hs.codeKnown (firstFault_ne_none _ _) rfl

theorem State.Inv.bufWriteIdle {s : State} (hs : s.Inv) (a : Nat) (b : Byte) : (s.bufWriteIdle a b).Inv := by
  unfold State.bufWriteIdle
  split
  · rename_i ha
    exact hs.congr (Memory.wf_storeBytes hs.bufForm ha) rfl rfl rfl rfl rfl
  · exact hs

/-- A host read changes the host's reply and the model's draws alone. -/
theorem State.Inv.reply {s : State} (hs : s.Inv) (x : Option Reply) (d : Nat) :
    State.Inv { s with reply := x, draws := d } :=
  hs.congr hs.bufForm rfl rfl rfl rfl rfl

theorem State.Inv.hostAct {s : State} (hs : s.Inv) (a : HostAction) : (s.hostAct a).Inv := by
  cases a with
  | regRead n =>
    show (s.regRead n).Inv
    unfold State.regRead
    split <;> exact hs.reply _ _
  | regWrite n v =>
    show (s.regWrite n v).Inv
    unfold State.regWrite
    split
    · exact hs.regWriteBusy ‹_› n
    · exact hs.regWriteIdle (Bool.eq_false_iff.2 ‹_›) n v
  | bufRead a =>
    show (s.bufRead a).Inv
    unfold State.bufRead
    split <;> exact hs.reply _ _
  | bufWrite a b =>
    show (s.bufWrite a b).Inv
    unfold State.bufWrite
    split
    · exact hs.bufWriteBusy ‹_›
    · exact hs.bufWriteIdle _ b

/-! ### Resets (R230 to R233) -/

theorem State.wf_abandon {s : State} (hw : Memory.wf s.buf) : Memory.wf s.abandon.buf := by
  unfold State.abandon
  split
  · exact Memory.wf_forget _ hw
  · exact hw

theorem State.Inv.resetInput {s : State} (hs : s.Inv) : s.resetInput.Inv :=
  .of_cleared (State.wf_abandon hs.bufForm) rfl rfl rfl rfl

theorem State.inv_powerOnReset (s : State) : s.powerOnReset.Inv := .of_cleared Memory.wf_nil rfl rfl rfl rfl

theorem State.inv_reset : State.reset.Inv := .of_cleared Memory.wf_reset rfl rfl rfl rfl

/-! ### The engine's turn -/

theorem exec_wf {i : Instr} {s t : State} (h : exec i s = .next t) (hw : Memory.wf s.buf) : Memory.wf t.buf := by
  rw [exec_eq_complete] at h
  obtain ⟨c, hc, rfl⟩ | ⟨e, -, rfl⟩ := State.complete_cases h
  · exact bodyOf_wf (s := s) hc hw
  · exact hw

theorem State.Inv.exec {i : Instr} {s t : State} (hs : s.Inv) (hd : s.disturbed = false) (h : exec i s = .next t) :
    t.Inv := by
  have htd : t.disturbed = s.disturbed := by rw [exec_eq_update h]
  exact .of_showsCompletion (exec_wf h hs.bufForm) (htd.trans hd) (exec_showsCompletion h)

theorem State.Inv.completeDisturbed {s : State} (hs : s.Inv) : s.completeDisturbed.Inv :=
  .of_showsCompletion (by simpa using Memory.wf_forget _ hs.bufForm) (by simp) s.completeDisturbed_showsCompletion

theorem State.Inv.engineTurn {s t : State} (hs : s.Inv) (h : engineTurn s = .next t) : t.Inv := by
  obtain ⟨-, he⟩ | ⟨-, -, he⟩ | ⟨-, hd, -, he⟩ | ⟨-, hd, i, -, he⟩ := engineTurn_cases s <;> rw [he] at h
  · cases h
    exact hs
  · cases h
    exact hs.completeDisturbed
  · cases h
    exact .of_showsCompletion hs.bufForm hd (.report fun _ => rfl)
  · exact hs.exec hd h

/-! ### Every turn -/

theorem State.Inv.takeTurn {x : Input} {s t : State} (hs : s.Inv) (h : takeTurn x s = .next t) : t.Inv := by
  cases x with
  | host a => cases h; exact hs.hostAct a
  | engine => exact hs.engineTurn h
  | reset => cases h; exact hs.resetInput
  | powerOn => cases h; exact s.inv_powerOnReset

theorem State.Inv.inputs {s : State} (hs : s.Inv) (ts : List Input) : State.Inv { s with inputs := ts } :=
  hs.congr hs.bufForm rfl rfl rfl rfl rfl

theorem State.Inv.step {s t : State} (hs : s.Inv) (h : step s = .next t) : t.Inv := by
  cases hi : s.inputs with
  | nil =>
    rw [step_engine (.inl hi)] at h
    exact (hs.inputs _).engineTurn h
  | cons x ts =>
    rw [step_turn hi] at h
    exact (hs.inputs ts).takeTurn h

end Sys2Proof.Machine
end

section
/-!
PROOFS. The statements about the state: the invariant, completions, frames, and the host's register actions.
-/

namespace Sys2Proof.Machine

/-- Settles O59: each turn keeps the invariant; a completion meets it afresh, and a disturbed command stays pending. -/
theorem stepKeepsInvariant : Obligations.StepKeepsInvariant := fun _ _ hs h => hs.step h

/-- Settles O58. -/
theorem resetStateMeetsInvariant : Obligations.ResetStateMeetsInvariant := ⟨State.inv_reset, State.regValue_reset⟩

/-- Settles O10, by the two forms of a completion. -/
theorem completionShowsSuccessOrError : Obligations.CompletionShowsSuccessOrError := by
  intro i s
  obtain ⟨t, ht⟩ := s.complete_answers (bodyOf i s)
  have h : exec i s = .next t := (exec_eq_complete i s).trans ht
  refine ⟨t, h, (exec_showsCompletion h).codes.imp_right ?_⟩
  rintro ⟨hs, hlo, hhi, -⟩
  exact ⟨hs, hlo, hhi⟩

/-- Settles O60: the disturbed completion is one of the same two forms, and keeps what no command writes. -/
theorem disturbedCommandCompletes : Obligations.DisturbedCommandCompletes := by
  intro s he hb hd
  refine ⟨_, (step_engine he).trans (engineTurn_disturbed hb hd),
    (State.completeDisturbed_showsCompletion _).codes, ?_⟩
  simp

/-- Settles O12. -/
theorem noCommandWritesCmdAddrLen : Obligations.NoCommandWritesCmdAddrLen := by
  intro i s t h
  rw [exec_eq_update h]
  exact ⟨rfl, rfl, rfl, rfl, rfl, rfl, rfl, rfl, rfl⟩

/-- A command that checks no range is none of those that read or write BUF. -/
theorem not_mem_readers_writers {i : Instr} {s : State} (h : checkedLength i s = none) :
    i ∉ readers ∧ i ∉ writers := by
  cases i
  case nop | crcInit | crcByte => decide
  case reflect w => simp [readers, writers]
  all_goals cases h

/-- Settles O43: the four commands are neither readers nor writers of BUF, and each register has its own writers. -/
theorem frameOfRegisterCommands : Obligations.FrameOfRegisterCommands := by
  intro i s t hk h
  obtain ⟨hr, hwr⟩ := not_mem_readers_writers hk
  have hne : i ≠ .crcBuf ∧ i ≠ .crc16 ∧ i ≠ .vdec ∧ i ≠ .ofdec ∧ i ≠ .hdec := by simpa [readers] using hr
  obtain ⟨hcrcBuf, hcrc16, hvdec, hofdec, hhdec⟩ := hne
  have hw := exec_writesOnlyItsOwn h
  obtain ⟨hrtype, huuid, hunk1, hunk2, hpsize, hpcrc⟩ := State.header_eq_iff.1 (hw.header hhdec)
  have hu := exec_eq_update h
  rw [hw.cnt hk, hw.hcrc hofdec, hw.hlen hofdec, hrtype, huuid, hunk1, hunk2, hpsize, hpcrc, hw.buf hwr,
    exec_fault_of_no_read h hr] at hu
  exact ⟨hu, fun hinit hbyte => hw.crc (by simp [crcWriters, hinit, hbyte, hcrcBuf, hcrc16]), hw.val hvdec,
    exec_bytes_kept h hwr⟩

/-- Settles O44: the five commands write no byte of BUF, and each register has its own writers. -/
theorem frameOfReadingCommands : Obligations.FrameOfReadingCommands := by
  intro i s t hi h
  have hwr : i ∉ writers := (by decide : ∀ j ∈ readers, j ∉ writers) i hi
  have hcrc : i ≠ .crcBuf → i ≠ .crc16 → i ∉ crcWriters :=
    (by decide : ∀ j ∈ readers, j ≠ .crcBuf → j ≠ .crc16 → j ∉ crcWriters) i hi
  have hreflect : ∀ w, i ≠ .reflect w := by rintro w rfl; simp at hi
  have hw := exec_writesOnlyItsOwn h
  have hu := exec_eq_update h
  rw [hw.buf hwr] at hu
  exact ⟨hu, fun hbuf h16 => hw.crc (hcrc hbuf h16), fun hvdec => hw.val hvdec hreflect,
    fun hofdec => ⟨hw.hcrc hofdec, hw.hlen hofdec⟩, hw.header, exec_bytes_kept h hwr⟩

/-- Settles O45: the three commands read no byte of BUF and are not the writers of any result register but CNT. -/
theorem frameOfWritingCommands : Obligations.FrameOfWritingCommands := by
  intro i s t hi h
  have hne : i ∉ readers ∧ i ∉ crcWriters ∧ i ≠ .vdec ∧ i ≠ .ofdec ∧ i ≠ .hdec :=
    (by decide : ∀ j ∈ writers, j ∉ readers ∧ j ∉ crcWriters ∧ j ≠ .vdec ∧ j ≠ .ofdec ∧ j ≠ .hdec) i hi
  obtain ⟨hr, hcrc, hvdec, hofdec, hhdec⟩ := hne
  have hreflect : ∀ w, i ≠ .reflect w := by rintro w rfl; simp at hi
  have hw := exec_writesOnlyItsOwn h
  obtain ⟨hrtype, huuid, hunk1, hunk2, hpsize, hpcrc⟩ := State.header_eq_iff.1 (hw.header hhdec)
  have hu := exec_eq_update h
  rw [hw.crc hcrc, hw.val hvdec hreflect, hw.hcrc hofdec, hw.hlen hofdec, hrtype, huuid, hunk1, hunk2, hpsize, hpcrc,
    exec_fault_of_no_read h hr] at hu
  exact ⟨hu, fun a ha => exec_bytes_outside h ha⟩

/-- Settles O52. -/
theorem registerWriteReadsBack : Obligations.RegisterWriteReadsBack := by
  intro s ts hb
  refine ⟨fun r v hr hc hi => ?_, fun n hi => step_regRead_idle hb hi, rfl, rfl, rfl, rfl, rfl, rfl, rfl, rfl, rfl,
    rfl, rfl, rfl, rfl, rfl, rfl, rfl, rfl, rfl, fun n hn => s.regValue_reserved hn⟩
  have hstep := step_regWrite_idle hb hi
  rw [State.regWriteIdle_writable _ v hr hc] at hstep
  have hne : ∀ q, regReadOnly q = true → r ≠ q := by
    rintro q hq rfl
    simp [hr] at hq
  refine ⟨_, hstep, ?_, fun q hq hv => ?_, fun a => ⟨?_, ?_⟩, by simp, ?_, by simp⟩
  · rw [State.regValue_regNumber, State.readReg_setReg_same _ v (hne _ rfl)]
  · rw [State.regValue_regNumber, State.readReg_setReg_ne _ v hq hv]
    exact (s.regValue_regNumber q).symm
  · exact State.bufByte_congr (by simp) (by simp) (by simp) a
  · exact State.written_congr (by simp) a
  · simpa [State.busy, State.setReg_status _ v (hne .status rfl)] using hb

/-- Settles O53: each of the five numbers is a read-only register's, and those from 18 on are no register's. -/
theorem readOnlyAndReservedWritesAreIgnored : Obligations.ReadOnlyAndReservedWritesAreIgnored := by
  intro s n ts hb
  refine ⟨fun hn v hi => ?_, fun hn hi => ?_⟩
  · rw [step_regWrite_idle hb hi]
    obtain rfl | rfl | rfl | rfl | rfl | hn := hn
    · exact congrArg _ (State.regWriteIdle_readOnly (r := .status) _ v rfl)
    · exact congrArg _ (State.regWriteIdle_readOnly (r := .errcode) _ v rfl)
    · exact congrArg _ (State.regWriteIdle_readOnly (r := .erraddr) _ v rfl)
    · exact congrArg _ (State.regWriteIdle_readOnly (r := .crcResult) _ v rfl)
    · exact congrArg _ (State.regWriteIdle_readOnly (r := .cnt) _ v rfl)
    · exact congrArg _ (State.regWriteIdle_reserved _ v hn)
  · rw [step_regRead_idle hb hi, s.regValue_reserved hn]

/-- Settles O54, by what reflection does bit by bit. -/
theorem crcResultReadsReflectedCrc : Obligations.CrcResultReadsReflectedCrc := by
  intro s ts hb hi
  refine ⟨s.crcResult.setWidth 128, step_regRead_idle hb hi, fun j => ?_⟩
  rw [BitVec.getLsbD_setWidth, State.crcResult, BitVec.getLsbD_xor, reflect_getLsbD _ _ _ (le_refl 16)]
  by_cases hj : j < 16
  · simp [hj, crcXorOut]
    omega
  · simp [hj, crcXorOut]

/-- Settles O7. -/
theorem cmdWriteIsAccepted : Obligations.CmdWriteIsAccepted :=
  fun _ _ _ hb hi => step_regWrite_idle hb hi

end Sys2Proof.Machine
end

section
/-!
SUPPORT. What a command puts into BUF and what it takes from there (20_memory.md R51, R62): the state the writing
commands leave, and the bytes a command depends on. And the host's accesses to BUF while BUSY = 0 (20_memory.md R59,
40_control.md R100).
-/

namespace Sys2Proof.Machine

/-! ### The commands that write BUF (R55, R104) -/

/-- A write of bytes at ADDR whose range is in BUF is committed: BUF, CNT and the completion's registers change. -/
theorem State.complete_ranged_write {s : State} {n : Nat} (bs : List Byte) (h : s.base + n ≤ Config.bufBytes) :
    s.complete (s.ranged n (.ok { state := { s.memWrite s.base bs with cnt := countOf n }, readTo := 0 })) =
      .next { s.memWrite s.base bs with cnt := countOf n, status := statusDone, errcode := 0, erraddr := 0 } := by
  rw [State.ranged_inside _ h, State.complete_ok, Nat.zero_sub, State.faultAfterReads_none]
  rfl

/-- OFENC where its five bytes are in BUF (R173). -/
theorem exec_ofenc_inside {s : State} (h : s.base + frameBytes ≤ Config.bufBytes) :
    exec .ofenc s = .next { s.memWrite s.base (oframe s.hcrc s.hlen) with
      cnt := countOf frameBytes, status := statusDone, errcode := 0, erraddr := 0 } :=
  State.complete_ranged_write _ h

/-! ### The bodies of the two decoding commands -/

/-- A decoder's answer as a body: its error, or the commit of what it decoded, read up to where it stopped. -/
def decodedBody {α : Type} (f : α × Nat → State) : Except Raise (α × Nat) → Body
  | .error e => .error e
  | .ok r => .ok { state := f r, readTo := r.2 }

theorem vdecBody_eq (s : State) : vdecBody s = s.ranged s.len.toNat
    (decodedBody (fun r => { s with val := r.1, cnt := countOf (r.2 - s.base) })
      (vdec s.bufByte s.base s.windowEnd)) := by
  unfold vdecBody
  cases vdec s.bufByte s.base s.windowEnd <;> rfl

theorem hdecBody_eq (s : State) : hdecBody s = s.ranged s.len.toNat
    (decodedBody (fun r => { s.setHeader r.1 with cnt := countOf (r.2 - s.base) })
      (parseHeader s.bufByte s.windowEnd s.base)) := by
  unfold hdecBody
  cases parseHeader s.bufByte s.windowEnd s.base <;> rfl

/-! ### The same state with another BUF (R62) -/

/-- `s` with the BUF of `u`: its written bytes, and what draws the others. -/
def State.withBufOf (s u : State) : State :=
  { s with buf := u.buf, spoiled := u.spoiled, powerOns := u.powerOns }

@[simp] theorem State.withBufOf_base (s u : State) : (s.withBufOf u).base = s.base := rfl

/-- What a command comes to, with the BUF of `u` in its commit. -/
def bodyWithBufOf (u : State) : Body → Body
  | .ok c => .ok { c with state := c.state.withBufOf u }
  | .error e => .error e

/-- Where `s` and `s` with the BUF of `u` agree on the bytes that `b` has read, `b'` is `b` but for the BUF of its
commit. It is used with `b` what a command comes to on `s`, and `b'` on the other state (R62). -/
def AlikeOnReads (s u : State) (b b' : Body) : Prop :=
  (∀ a, s.base ≤ a → a < bodyReadTo b → (s.withBufOf u).bufByte a = s.bufByte a) → ∃ v, b' = bodyWithBufOf v b

section Reads

variable {s u : State}

/-- The range check itself reads no byte. -/
theorem AlikeOnReads.ranged {n : Nat} {b b' : Body} (h : AlikeOnReads s u b b') :
    AlikeOnReads s u (s.ranged n b) ((s.withBufOf u).ranged n b') := by
  by_cases hn : s.base + n ≤ Config.bufBytes
  · rwa [State.ranged_inside b hn, State.ranged_inside (s := s.withBufOf u) b' hn]
  · rw [State.ranged_outside b (Nat.lt_of_not_le hn),
      State.ranged_outside (s := s.withBufOf u) b' (Nat.lt_of_not_le hn)]
    exact fun _ => ⟨u, rfl⟩

/-- CRC_BUF and CRC16 read the window (R124, R125). -/
theorem alikeOnReads_crcWindowBody (c : Half) :
    AlikeOnReads s u (crcWindowBody s c) (crcWindowBody (s.withBufOf u) c) := by
  refine .ranged fun hr => ⟨u, ?_⟩
  have hw : (s.withBufOf u).window = s.window :=
    State.memRead_congr fun k hk => hr _ (Nat.le_add_right _ _) (Nat.add_lt_add_left hk s.base)
  rw [hw]
  rfl

/-- A body made from a decoder's answer depends on the bytes that the decoder has read. -/
theorem AlikeOnReads.decoded {α : Type} {x : (Nat → Byte) → Except Raise (α × Nat)} {f f' : α × Nat → State}
    (hx : ReadsFrom (fun r => r.2) x s.base) (hf : ∀ r, f' r = (f r).withBufOf u) :
    AlikeOnReads s u (decodedBody f (x s.bufByte)) (decodedBody f' (x (s.withBufOf u).bufByte)) := by
  intro hr
  obtain ⟨-, hsame⟩ := hx s.bufByte
  refine ⟨u, ?_⟩
  cases hd : x s.bufByte with
  | error e =>
    rw [hd] at hr hsame
    rw [hsame _ hr]
    rfl
  | ok r =>
    rw [hd] at hr hsame
    rw [hsame _ hr, decodedBody, hf]
    rfl

/-- VDEC reads what the varint decoder reads (R154). -/
theorem alikeOnReads_vdecBody : AlikeOnReads s u (vdecBody s) (vdecBody (s.withBufOf u)) := by
  rw [vdecBody_eq, vdecBody_eq]
  exact .ranged (.decoded (readsFrom_vdec _ _) fun _ => rfl)

/-- HDEC reads what the header parser reads (R175). -/
theorem alikeOnReads_hdecBody : AlikeOnReads s u (hdecBody s) (hdecBody (s.withBufOf u)) := by
  rw [hdecBody_eq, hdecBody_eq]
  exact .ranged (.decoded (readsFrom_parseHeader _ _) fun _ => rfl)

/-- OFDEC reads its five bytes, also where the marker is wrong (R172). -/
theorem alikeOnReads_ofdecBody : AlikeOnReads s u (ofdecBody s) (ofdecBody (s.withBufOf u)) := by
  refine .ranged fun hr => ⟨u, ?_⟩
  have hread : ∀ k < frameBytes, (s.withBufOf u).bufByte (s.base + k) = s.bufByte (s.base + k) := fun k hk =>
    hr _ (Nat.le_add_right _ _) (by split <;> exact Nat.add_lt_add_left hk _)
  have hmarker : (s.withBufOf u).bufByte s.base = s.bufByte s.base := hread 0 (by decide)
  simp only [State.withBufOf_base, hmarker, hread 1 (by decide), hread 2 (by decide), hread 3 (by decide),
    hread 4 (by decide)]
  split <;> rfl

/-- Each command's body depends on no byte it has not read. -/
theorem alikeOnReads_bodyOf (i : Instr) : AlikeOnReads s u (bodyOf i s) (bodyOf i (s.withBufOf u)) := by
  cases i
  case nop | crcInit | crcByte => exact fun _ => ⟨u, rfl⟩
  case reflect w => simp only [bodyOf, reflectBody]; split <;> exact fun _ => ⟨u, rfl⟩
  case crcBuf | crc16 => exact alikeOnReads_crcWindowBody _
  case venc | ofenc | henc => exact .ranged fun _ => ⟨(s.withBufOf u).memWrite s.base _, rfl⟩
  case vdec => exact alikeOnReads_vdecBody
  case ofdec => exact alikeOnReads_ofdecBody
  case hdec => exact alikeOnReads_hdecBody

/-- A completion notes the bytes read by whether they are written, and reads BUF no further (R243). -/
theorem State.completed_withBufOf {b : Body} (v : State)
    (hw : ∀ k, k < bodyReadTo b - s.base → (s.withBufOf u).written (s.base + k) = s.written (s.base + k)) :
    ∃ w, (s.withBufOf u).completed (bodyWithBufOf v b) = (s.completed b).withBufOf w := by
  have hf : (s.withBufOf u).faultAfterReads s.base (bodyReadTo b - s.base) =
      s.faultAfterReads s.base (bodyReadTo b - s.base) := by
    simp only [State.faultAfterReads, State.allWritten_congr hw]
    rfl
  cases b with
  | ok c => exact ⟨v, congrArg (State.setFault (c.state.withBufOf v).succeed) hf⟩
  | error e => exact ⟨u, congrArg (State.setFault ((s.withBufOf u).report e.kind e.addr)) hf⟩

/-- A command on the same state with another BUF, alike on the bytes it reads: its outcome differs in BUF alone. -/
theorem exec_withBufOf {i : Instr} {t : State} (h : exec i s = .next t)
    (hr : ∀ k, k < readLength i s → (s.withBufOf u).bufByte (s.base + k) = s.bufByte (s.base + k) ∧
      (s.withBufOf u).written (s.base + k) = s.written (s.base + k)) :
    ∃ w, exec i (s.withBufOf u) = .next (t.withBufOf w) := by
  rw [exec_eq_complete] at h
  cases h
  have hbytes : ∀ a, s.base ≤ a → a < bodyReadTo (bodyOf i s) → (s.withBufOf u).bufByte a = s.bufByte a := by
    intro a hlo hhi
    obtain ⟨k, rfl⟩ := Nat.exists_eq_add_of_le hlo
    exact (hr k (Nat.lt_sub_iff_add_lt'.2 hhi)).1
  obtain ⟨v, hv⟩ := alikeOnReads_bodyOf i hbytes
  obtain ⟨w, hw⟩ := State.completed_withBufOf v fun k hk => (hr k hk).2
  exact ⟨w, by rw [exec_eq_complete, hv, State.complete, hw]⟩

end Reads

/-! ### The host's accesses to BUF while BUSY = 0 (R59, R100) -/

theorem State.bufWriteIdle_inside (s : State) {a : Nat} (b : Byte) (h : a < Config.bufBytes) :
    s.bufWriteIdle a b = s.memWrite a [b] := if_pos h

theorem State.bufWriteIdle_beyond (s : State) {a : Nat} (b : Byte) (h : Config.bufBytes ≤ a) :
    s.bufWriteIdle a b = s := if_neg (Nat.not_lt.2 h)

theorem step_bufWrite_idle {s : State} {a : Word} {b : Byte} {ts : List Input} (hb : s.busy = false)
    (hi : s.inputs = .host (.bufWrite a b) :: ts) :
    step s = .next (State.bufWriteIdle { s with inputs := ts } a.toNat b) := by
  rw [step_turn hi]
  exact congrArg _ (if_neg (Bool.eq_false_iff.1 hb))

theorem step_bufRead_idle {s : State} {a : Word} {ts : List Input} (hb : s.busy = false)
    (hi : s.inputs = .host (.bufRead a) :: ts) :
    step s = .next { s with inputs := ts, reply := some (.byte (s.bufValue a.toNat)) } := by
  rw [step_turn hi]
  exact congrArg _ (if_neg (Bool.eq_false_iff.1 hb))

end Sys2Proof.Machine
end

section
/-!
PROOFS. The statements about BUF: OFENC's frame, the bytes a command does not read, the host's accesses, and the step
that runs the pending command.
-/

namespace Sys2Proof.Machine

/-- Settles O32: the five bytes are those of the frame, read back where they were written. -/
theorem ofencWritesFrame : Obligations.OfencWritesFrame := by
  refine ⟨by decide, fun s hs => ?_⟩
  have h := exec_ofenc_inside (s := s) hs
  have hbyte := fun k (hk : k < frameBytes) => s.bufByte_memWrite_inside s.base (oframe s.hcrc s.hlen) hk
  have hwritten := fun k (hk : k < frameBytes) => s.written_memWrite_inside s.base (oframe s.hcrc s.hlen) hk
  refine ⟨_, h, rfl, hbyte 0 (by decide), ?_, ?_, ?_, ?_, hwritten, fun a ha => exec_bytes_outside h ha⟩
  · exact (congrArg _ (hbyte 1 (by decide))).trans (hiByte_toNat s.hcrc)
  · exact (congrArg _ (hbyte 2 (by decide))).trans (loByte_toNat s.hcrc)
  · exact (congrArg _ (hbyte 3 (by decide))).trans (hiByte_toNat s.hlen)
  · exact (congrArg _ (hbyte 4 (by decide))).trans (loByte_toNat s.hlen)

/-- Settles O46: the second state is the first with another BUF, and so is what the command leaves. -/
theorem commandsIgnoreUnreadBytes : Obligations.CommandsIgnoreUnreadBytes := by
  intro i s s' t t' hs hr h h'
  obtain ⟨u, rfl⟩ : ∃ u, s' = s.withBufOf u := ⟨s', hs⟩
  obtain ⟨w, hw⟩ := exec_withBufOf h hr
  cases hw.symm.trans h'
  rfl

/-- Settles O55: the turn is a write of one byte in BUF, nothing at an address beyond it, or a read. -/
theorem bufWriteReadsBack : Obligations.BufWriteReadsBack := by
  intro s a b ts hb
  refine ⟨fun hi ha => ?_, fun hi ha => ?_, fun hi => step_bufRead_idle hb hi⟩
  · have hstep := step_bufWrite_idle hb hi
    rw [State.bufWriteIdle_inside _ b ha] at hstep
    refine ⟨_, hstep, rfl, State.bufByte_memWrite_inside _ _ [b] (k := 0) (by simp),
      State.written_memWrite_inside _ _ [b] (k := 0) (by simp), fun k hk => ?_⟩
    have hout : k < a.toNat ∨ a.toNat + [b].length ≤ k := Nat.lt_or_gt_of_ne hk
    exact ⟨State.bufByte_memWrite_outside _ [b] hout, State.written_memWrite_outside _ [b] hout⟩
  · rw [step_bufWrite_idle hb hi, State.bufWriteIdle_beyond _ b ha]

/-- Settles O4. -/
theorem stepRunsThePendingCommand : Obligations.StepRunsThePendingCommand :=
  fun _ _ he hb hd hi _ => (step_engine he).trans (engineTurn_command hb hd hi)

end Sys2Proof.Machine
end

section
/-!
SUPPORT. The command word field by field, and the legal words (30_encoding.md R70 to R72).
-/

namespace Sys2Proof.Machine

/-! ### The three fields of a word (R70) -/

theorem fieldOp_encode (i : Instr) : fieldOp (encode i) = i.opcode := by
  ext j hj
  simp [fieldOp, encode, hj, show j < 32 by omega]

theorem fieldW_encode (i : Instr) : fieldW (encode i) = i.width := by
  ext j hj
  simp [fieldW, encode, hj, show 8 + j < 32 by omega]

theorem fieldRsv_encode (i : Instr) : fieldRsv (encode i) = 0 := by
  ext j hj
  have hwidth : i.width.getLsbD (15 + j - 8) = false := BitVec.getLsbD_of_ge _ _ (by omega)
  have hop : i.opcode.getLsbD (15 + j) = false := BitVec.getLsbD_of_ge _ _ (by omega)
  simp [fieldRsv, encode, hwidth, hop]

/-- The fields together are all 32 bits of a word. -/
theorem word_eq_of_fields {v w : Word} (hop : fieldOp v = fieldOp w) (hwidth : fieldW v = fieldW w)
    (hrsv : fieldRsv v = fieldRsv w) : v = w := by
  have hop := congrArg BitVec.toNat hop
  have hwidth := congrArg BitVec.toNat hwidth
  have hrsv := congrArg BitVec.toNat hrsv
  simp only [fieldOp, fieldW, fieldRsv, BitVec.extractLsb'_toNat, Nat.shiftRight_eq_div_pow] at hop hwidth hrsv
  apply BitVec.eq_of_toNat_eq
  omega

/-- The word of a command is the one with its three fields. -/
theorem encode_eq_iff {i : Instr} {w : Word} :
    encode i = w ↔ fieldRsv w = 0 ∧ fieldOp w = i.opcode ∧ fieldW w = i.width := by
  constructor
  · rintro rfl
    exact ⟨fieldRsv_encode i, fieldOp_encode i, fieldW_encode i⟩
  · rintro ⟨hrsv, hop, hwidth⟩
    exact word_eq_of_fields ((fieldOp_encode i).trans hop.symm) ((fieldW_encode i).trans hwidth.symm)
      ((fieldRsv_encode i).trans hrsv.symm)

/-! ### The opcode map (R71) -/

/-- The eleven commands with no operand field. -/
def plainCommands : List Instr := opcodeMap.map Prod.snd

theorem plain_or_reflect (i : Instr) : i ∈ plainCommands ∨ ∃ k, i = .reflect k := by
  cases i
  case reflect k => exact .inr ⟨k, rfl⟩
  all_goals exact .inl (by decide)

theorem lookup_opcode {i : Instr} (h : i ∈ plainCommands) : opcodeMap.lookup i.opcode = some i :=
  (by decide : ∀ j ∈ plainCommands, opcodeMap.lookup j.opcode = some j) i h

theorem opcode_ne_opReflect {i : Instr} (h : i ∈ plainCommands) : i.opcode ≠ opReflect :=
  (by decide : ∀ j ∈ plainCommands, j.opcode ≠ opReflect) i h

theorem width_plain {i : Instr} (h : i ∈ plainCommands) : i.width = 0 :=
  (by decide : ∀ j ∈ plainCommands, j.width = 0) i h

theorem wellFormed_plain {i : Instr} (h : i ∈ plainCommands) : i.wellFormed = true :=
  (by decide : ∀ j ∈ plainCommands, j.wellFormed = true) i h

/-- An opcode that the map lists is that of the command found there. -/
theorem opcode_of_lookup {op : BitVec 8} {i : Instr} (h : opcodeMap.lookup op = some i) :
    i ∈ plainCommands ∧ op = i.opcode := by
  obtain ⟨l, l', hl, -⟩ := List.lookup_eq_some_iff.1 h
  have hmem : (op, i) ∈ opcodeMap := by simp [hl]
  exact ⟨List.mem_map_of_mem (f := Prod.snd) hmem, (by decide : ∀ p ∈ opcodeMap, p.1 = p.2.opcode) _ hmem⟩

/-- The twelve opcodes of R72, item 1. -/
def legalOpcodes : List (BitVec 8) :=
  [0x00, 0x01, 0x02, 0x03, 0x04, 0x05, 0x10, 0x11, 0x20, 0x21, 0x22, 0x23]

theorem opcode_mem_legalOpcodes (i : Instr) : i.opcode ∈ legalOpcodes := by
  cases i <;> simp [Instr.opcode, legalOpcodes]

theorem plain_of_opcode_legal {op : BitVec 8} (h : op ∈ legalOpcodes) (hop : op ≠ opReflect) :
    ∃ i ∈ plainCommands, op = i.opcode := by
  revert op
  decide

theorem nop_of_opcode {i : Instr} (h : i.opcode = 0x00) : i = .nop := by
  cases i
  case nop => rfl
  all_goals cases h

/-! ### Decoding (R72, R73) -/

theorem decode_encode (i : Instr) : decode (encode i) = .ok i := by
  unfold decode
  rw [fieldRsv_encode, fieldOp_encode, fieldW_encode, if_neg (not_not.2 rfl)]
  obtain h | ⟨k, rfl⟩ := plain_or_reflect i
  · simp [opcode_ne_opReflect h, lookup_opcode h, width_plain h]
  · exact if_pos rfl

/-- A word that stands for a command has the command's fields. -/
theorem encode_of_decode {w : Word} {i : Instr} (h : decode w = .ok i) : encode i = w := by
  unfold decode at h
  split at h
  · cases h
  · rename_i hrsv
    split at h
    · rename_i hop
      cases h
      exact encode_eq_iff.2 ⟨not_not.1 hrsv, hop, rfl⟩
    · split at h
      · cases h
      · rename_i hlook
        obtain ⟨hplain, hop⟩ := opcode_of_lookup hlook
        split at h
        · cases h
        · rename_i hwidth
          cases h
          exact encode_eq_iff.2 ⟨not_not.1 hrsv, hop, (not_not.1 hwidth).trans (width_plain hplain).symm⟩

theorem decode_eq_ok_iff {w : Word} {i : Instr} : decode w = .ok i ↔ encode i = w :=
  ⟨encode_of_decode, fun h => h ▸ decode_encode i⟩

/-! ### Legal words (R72) -/

theorem legalWord_encode (i : Instr) : legalWord (encode i) = i.wellFormed := by
  simp [legalWord, decode_encode]

theorem legalWord_iff {w : Word} : legalWord w = true ↔ ∃ i : Instr, i.wellFormed = true ∧ encode i = w := by
  constructor
  · intro h
    unfold legalWord at h
    split at h
    · rename_i i hi
      exact ⟨i, h, encode_of_decode hi⟩
    · cases h
  · rintro ⟨i, hi, rfl⟩
    rwa [legalWord_encode]

theorem legalWidth_iff {k : BitVec 7} : legalWidth k = true ↔ 1 ≤ k.toNat ∧ k.toNat ≤ 64 := by
  simp [legalWidth]

/-- REFLECT's word, as R72 writes it out. -/
theorem encode_reflect_ofNat {k : Nat} (h : k < 128) :
    encode (.reflect (BitVec.ofNat 7 k)) = 0x00000005#32 ||| (BitVec.ofNat 32 k <<< 8) := by
  have hk : (BitVec.ofNat 7 k).setWidth 32 = BitVec.ofNat 32 k := by
    apply BitVec.eq_of_toNat_eq
    simp
    omega
  show ((BitVec.ofNat 7 k).setWidth 32 <<< 8) ||| (0x05#8).setWidth 32 = _
  rw [hk, BitVec.or_comm]
  rfl

/-- A legal word is one of the eleven with no operand, or REFLECT's with a width of 1 to 64. -/
theorem legalWord_cases {w : Word} : legalWord w = true ↔
    (∃ i ∈ plainCommands, encode i = w) ∨ ∃ k, legalWidth k = true ∧ encode (.reflect k) = w := by
  rw [legalWord_iff]
  constructor
  · rintro ⟨i, hi, hw⟩
    obtain h | ⟨k, rfl⟩ := plain_or_reflect i
    · exact .inl ⟨i, h, hw⟩
    · exact .inr ⟨k, hi, hw⟩
  · rintro (⟨i, h, hw⟩ | ⟨k, hk, hw⟩)
    · exact ⟨i, wellFormed_plain h, hw⟩
    · exact ⟨.reflect k, hk, hw⟩

/-- R72 by its four items. -/
theorem legalWord_iff_items {w : Word} : legalWord w = true ↔
    fieldOp w ∈ legalOpcodes ∧ fieldRsv w = 0 ∧
      (fieldOp w = 0x05#8 → 1 ≤ (fieldW w).toNat ∧ (fieldW w).toNat ≤ 64) ∧
      (fieldOp w ≠ 0x05#8 → fieldW w = 0) := by
  rw [legalWord_cases]
  constructor
  · rintro (⟨i, hi, hw⟩ | ⟨k, hk, hw⟩) <;> obtain ⟨hrsv, hop, hwidth⟩ := encode_eq_iff.1 hw <;> rw [hop, hwidth]
    · exact ⟨opcode_mem_legalOpcodes i, hrsv, fun h => absurd h (opcode_ne_opReflect hi), fun _ => width_plain hi⟩
    · exact ⟨opcode_mem_legalOpcodes (.reflect k), hrsv, fun _ => legalWidth_iff.1 hk, fun h => absurd rfl h⟩
  · rintro ⟨hmem, hrsv, hreflect, hplain⟩
    by_cases hop : fieldOp w = 0x05#8
    · exact .inr ⟨fieldW w, legalWidth_iff.2 (hreflect hop), encode_eq_iff.2 ⟨hrsv, hop, rfl⟩⟩
    · obtain ⟨i, hi, hio⟩ := plain_of_opcode_legal hmem hop
      exact .inl ⟨i, hi, encode_eq_iff.2 ⟨hrsv, hio, (hplain hop).trans (width_plain hi).symm⟩⟩

/-- R72 by its list of 75 words. -/
theorem legalWord_iff_listed {w : Word} : legalWord w = true ↔
    w ∈ ([0x00, 0x01, 0x02, 0x03, 0x04, 0x10, 0x11, 0x20, 0x21, 0x22, 0x23] : List Word) ∨
      ∃ k : Nat, 1 ≤ k ∧ k ≤ 64 ∧ w = 0x00000005#32 ||| (BitVec.ofNat 32 k <<< 8) := by
  rw [legalWord_cases]
  refine or_congr ?_ ⟨?_, ?_⟩
  · rw [← List.mem_map]
    rfl
  · rintro ⟨k, hk, rfl⟩
    obtain ⟨hlo, hhi⟩ := legalWidth_iff.1 hk
    refine ⟨k.toNat, hlo, hhi, ?_⟩
    rw [← encode_reflect_ofNat k.isLt, BitVec.ofNat_toNat, BitVec.setWidth_eq]
  · rintro ⟨k, hlo, hhi, rfl⟩
    have hk : (BitVec.ofNat 7 k).toNat = k := Nat.mod_eq_of_lt (by omega)
    exact ⟨_, legalWidth_iff.2 (by rw [hk]; exact ⟨hlo, hhi⟩), encode_reflect_ofNat (by omega)⟩

/-! ### Words that are not legal, at the engine's turn (R73, R202) -/

/-- An error of a command that has read no byte changes the completion's registers alone (R104). -/
theorem State.complete_error_unread (s : State) (k : ErrKind) (a : Nat) :
    s.complete (.error { kind := k, addr := a, readTo := 0 }) = .next (s.report k a) := by
  rw [State.complete_error, Nat.zero_sub, State.faultAfterReads_none]
  rfl

/-- A commit of a command that has read no byte sets no fault (R104). -/
theorem State.complete_ok_unread (s t : State) :
    s.complete (.ok { state := t, readTo := 0 }) = .next (t.succeed.setFault s.fault) := by
  rw [State.complete_ok, Nat.zero_sub, State.faultAfterReads_none]

/-- Only REFLECT has words that are not legal and still stand for it. -/
theorem bodyOf_not_wellFormed {i : Instr} (s : State) (h : i.wellFormed = false) :
    bodyOf i s = .error { kind := .illegalCommand, addr := 0, readTo := 0 } := by
  obtain hp | ⟨k, rfl⟩ := plain_or_reflect i
  · simp [wellFormed_plain hp] at h
  · exact if_neg (Bool.eq_false_iff.1 h)

theorem engineTurn_illegal {s : State} (hb : s.busy = true) (hd : s.disturbed = false)
    (hl : legalWord s.cmd = false) : engineTurn s = .next (s.report .illegalCommand 0) := by
  obtain ⟨r, hr⟩ | ⟨i, hi⟩ : (∃ r, decode s.cmd = .error r) ∨ ∃ i, decode s.cmd = .ok i := by
    cases decode s.cmd <;> simp
  · rw [engineTurn_rejected hb hd hr, State.complete_error_unread]
  · have hw : i.wellFormed = false := by rwa [← encode_of_decode hi, legalWord_encode] at hl
    rw [engineTurn_command hb hd hi, exec_eq_complete, bodyOf_not_wellFormed s hw, State.complete_error_unread]

end Sys2Proof.Machine
end

section
/-!
SUPPORT. The turns of `run`: the host's poll of STATUS, and any number of polls (30_encoding.md R77, 40_control.md R105,
70_reset_and_hazards.md R240).
-/

namespace Sys2Proof.Machine

/-- A command always answers a next state (R104). -/
theorem exec_answers (i : Instr) (s : State) : ∃ t, exec i s = .next t :=
  exec_eq_complete i s ▸ s.complete_answers _

theorem run_of_step {s t : State} (k : Nat) (h : step s = .next t) :
    Host.Core.run core (k + 1) s = Host.Core.run core k t := by
  have hc : core.step s = .next t := h
  simp only [Host.Core.run, hc]

/-- A host read of STATUS is exact, whether or not a command is pending (R240). -/
theorem step_rdStatus {s : State} {ts : List Input} (h : s.inputs = asmRd .status ++ ts) :
    step s = .next { s with inputs := ts, reply := some (.reg (s.status.setWidth 128)) } := by
  rw [step_turn h]
  exact congrArg _ (if_neg fun hn => hn.2 rfl)

/-- The state after a number of polls of STATUS, with the turns that are left. -/
def State.polled (s : State) (polls : Nat) (ts : List Input) : State :=
  { s with inputs := ts, reply := if polls = 0 then s.reply else some (.reg (s.status.setWidth 128)) }

/-- Polls take their turns and change nothing but the host's reply (R77, R240). -/
theorem run_polls {s : State} {ts : List Input} (polls k : Nat)
    (h : s.inputs = (List.replicate polls (asmRd .status)).flatten ++ ts) :
    Host.Core.run core (polls + k) s = Host.Core.run core k (s.polled polls ts) := by
  induction polls generalizing s with
  | zero =>
    have hs : s.polled 0 ts = s := by rw [← show s.inputs = ts from h]; rfl
    rw [hs, Nat.zero_add]
  | succ polls ih =>
    rw [List.replicate_succ, List.flatten_cons, List.append_assoc] at h
    rw [show polls + 1 + k = polls + k + 1 by omega, run_of_step _ (step_rdStatus h), ih rfl]
    simp [State.polled]

theorem State.accept_busy (s : State) (w : Word) : (s.accept w).busy = true := by
  simp [State.busy, statusBusy]

theorem State.regWriteIdle_cmd (s : State) (v : Lane) :
    s.regWriteIdle (regNumber .cmd) v = s.accept (v.setWidth 32) := rfl

/-- The host's `cmd` while BUSY = 0 (R76, R101). -/
theorem step_asmCmd {s : State} {i : Instr} {ts : List Input} (hb : s.busy = false)
    (hi : s.inputs = asmCmd i ++ ts) : step s = .next (State.accept { s with inputs := ts } (encode i)) := by
  have hw : ((encode i).setWidth 128).setWidth 32 = encode i := by
    rw [BitVec.setWidth_setWidth_of_le _ (by decide), BitVec.setWidth_eq]
  rw [step_regWrite_idle (ts := ts) hb hi, State.regWriteIdle_cmd, hw]

/-- `wait` with an undisturbed command pending: the polls leave it pending, the engine executes it, and the last read
shows its STATUS (R77). -/
theorem run_asmWait {s u : State} {i : Instr} {polls : Nat} (hb : s.busy = true) (hd : s.disturbed = false)
    (hi : decode s.cmd = .ok i) (hs : s.inputs = asmWait polls)
    (hu : exec i (s.polled polls (asmRd .status)) = .next u) :
    Host.Core.run core (polls + 2) s =
      .next { u with inputs := [], reply := some (.reg (u.status.setWidth 128)) } := by
  rw [asmWait, List.append_assoc] at hs
  have hexec : step (s.polled polls (.engine :: asmRd .status)) = .next u :=
    (step_engine (.inr ⟨_, rfl⟩)).trans
      ((engineTurn_command (s := s.polled polls (asmRd .status)) hb hd hi).trans hu)
  have hinputs : u.inputs = asmRd .status ++ [] := by rw [exec_eq_update hu]; rfl
  rw [run_polls polls 2 hs, List.singleton_append, run_of_step _ hexec, run_of_step _ (step_rdStatus hinputs)]
  rfl

end Sys2Proof.Machine
end

section
/-!
SUPPORT. The decoding commands where the window holds what they decode (42_varint.md R154, 43_framer.md R175), and the
encoders' lengths (30_encoding.md R84, R87).
-/

namespace Sys2Proof.Machine

/-! ### Lengths of the encoders -/

theorem venc_length_pos (v : Value) : 1 ≤ (venc v).length := (vencLoop_length 9 v).1

theorem venc_length_le (v : Value) : (venc v).length ≤ 10 := (vencLoop_length 9 v).2

theorem venc_length_least (v : Value) : v.toNat < 2 ^ (7 * (venc v).length) ∧
    ∀ m, 1 ≤ m → v.toNat < 2 ^ (7 * m) → (venc v).length ≤ m :=
  vencLoop_length_least (by have := v.isLt; omega)

theorem uuidBytes_length (u : Uuid) : (uuidBytes u).length = 16 := by simp [uuidBytes]

theorem tailBytes_length (h : Header) :
    (tailBytes h).length = 4 + (venc h.psize).length + (venc h.pcrc).length := by
  simp [tailBytes]
  omega

theorem headerBytes_length_noPayload {h : Header} (h2 : h.rtype = noPayloadType) : (headerBytes h).length = 20 := by
  rw [headerBytes, if_pos h2]
  simp [uuidBytes_length]

theorem headerBytes_length_withPayload {h : Header} (h2 : h.rtype ≠ noPayloadType) :
    (headerBytes h).length = 24 + (venc h.psize).length + (venc h.pcrc).length := by
  rw [headerBytes, if_neg h2]
  simp [uuidBytes_length, tailBytes_length]
  omega

/-! ### A decoder's answer, completed (R104) -/

/-- A window in BUF that begins with what the decoder wants: its result is committed, and the `m` bytes up to the address
after it have been read. -/
theorem State.complete_decoded {α : Type} {s : State} {n : Nat} {f : α × Nat → State}
    {x : Except Raise (α × Nat)} {a : α} (m : Nat) (hn : s.base + n ≤ Config.bufBytes) (hx : x = .ok (a, s.base + m)) :
    s.complete (s.ranged n (decodedBody f x)) =
      .next ((f (a, s.base + m)).succeed.setFault (s.faultAfterReads s.base m)) := by
  subst hx
  rw [State.ranged_inside _ hn, decodedBody, State.complete_ok, Nat.add_sub_cancel_left]

theorem exec_vdec_decoded {s : State} {v : Value} (m : Nat) (hn : s.windowEnd ≤ Config.bufBytes)
    (hx : vdec s.bufByte s.base s.windowEnd = .ok (v, s.base + m)) :
    exec .vdec s = .next { s with
      val := v, cnt := countOf m, status := statusDone, errcode := 0, erraddr := 0,
      fault := s.faultAfterReads s.base m } := by
  rw [exec_eq_complete, bodyOf, vdecBody_eq, State.complete_decoded m hn hx, Nat.add_sub_cancel_left]
  rfl

theorem exec_hdec_decoded {s : State} {h : Header} (m : Nat) (hn : s.windowEnd ≤ Config.bufBytes)
    (hx : parseHeader s.bufByte s.windowEnd s.base = .ok (h, s.base + m)) :
    exec .hdec s = .next { s.setHeader h with
      cnt := countOf m, status := statusDone, errcode := 0, erraddr := 0,
      fault := s.faultAfterReads s.base m } := by
  rw [exec_eq_complete, bodyOf, hdecBody_eq, State.complete_decoded m hn hx, Nat.add_sub_cancel_left]
  rfl

/-! ### The header's uuid and tail (R81, R82) -/

/-- The uuid of the header in the window: the 16 bytes after the prologue. -/
def State.windowUuid (s : State) : Uuid :=
  uuidOfBytes ((List.range 16).map (fun i => s.bufByte (s.base + 4 + i)))

theorem State.extractLsb'_windowUuid (s : State) {i : Nat} (h : i < 16) :
    s.windowUuid.extractLsb' (8 * i) 8 = s.bufByte (s.base + 4 + i) := by
  rw [State.windowUuid, extractLsb'_uuidOfBytes (by simp) (by simpa using h)]
  simp

/-- The tail in place at `p`: the two tags, and two terminated varints of `m` and `n` bytes (R82). -/
structure State.TailAt (s : State) (p m n : Nat) : Prop where
  sizeTag : s.bufByte (p + 2) = sizeTag
  size : s.varintAt (p + 3) m
  sizeFits : s.varintValueAt (p + 3) m < 2 ^ 64
  crcTag : s.bufByte (p + 3 + m) = crcTag
  crc : s.varintAt (p + 4 + m) n
  crcFits : s.varintValueAt (p + 4 + m) n < 2 ^ 64

theorem parseTail_ok {s : State} {p m n stop : Nat} (rt : Byte) (u : Uuid) (h : s.TailAt p m n)
    (hs : p + 4 + m + n ≤ stop) :
    parseTail s.bufByte stop rt u p =
      .ok ({ rtype := rt, uuid := u, unk1 := s.bufByte p, unk2 := s.bufByte (p + 1),
             psize := BitVec.ofNat 64 (s.varintValueAt (p + 3) m),
             pcrc := BitVec.ofNat 64 (s.varintValueAt (p + 4 + m) n) }, p + 4 + m + n) := by
  have e1 : take s.bufByte stop p = .ok (s.bufByte p, p + 1) := take_ok (by omega)
  have e2 : take s.bufByte stop (p + 1) = .ok (s.bufByte (p + 1), p + 2) := take_ok (by omega)
  have e3 : expect s.bufByte stop sizeTag (p + 2) = .ok (p + 3) := expect_ok (by omega) h.sizeTag
  have e4 := vdec_ok (stop := stop) h.size (by omega) h.sizeFits
  have e5 : expect s.bufByte stop crcTag (p + 3 + m) = .ok (p + 4 + m) := by
    rw [expect_ok (by omega) h.crcTag]
    congr 1
    omega
  have e6 := vdec_ok (stop := stop) h.crc (by omega) h.crcFits
  simp only [parseTail, e1, e2, e3, e4, e5, e6, bind, Except.bind, pure, Except.pure]

end Sys2Proof.Machine
end

section
/-!
PROOFS. The statements about the encodings: command words, the engine on them, varints and headers.
-/

namespace Sys2Proof.Machine

/-- Settles O1: a word is determined by its three fields, and the decoder finds the command that has them. -/
theorem decodeInvertsEncode : Obligations.DecodeInvertsEncode := fun _ _ => decode_eq_ok_iff

/-- Settles O2: the legal words are the eleven with no operand and REFLECT's, by their fields and written out. -/
theorem legalWordsAreThoseOfTheList : Obligations.LegalWordsAreThoseOfTheList :=
  fun _ => ⟨legalWord_iff_items, legalWord_iff_listed⟩

/-- Settles O5. -/
theorem illegalWordOnlyReportsIllegalCommand : Obligations.IllegalWordOnlyReportsIllegalCommand :=
  fun _ he hb hd hl => (step_engine he).trans (engineTurn_illegal hb hd hl)

/-- Settles O8: the command is accepted, and `wait` sees it executed. -/
theorem runCompletesAfterAnyPolls : Obligations.RunCompletesAfterAnyPolls := by
  intro s i polls hb _ hi
  obtain ⟨u, hu⟩ := exec_answers i
    (State.polled (State.accept { s with inputs := asmWait polls } (encode i)) polls (asmRd .status))
  refine ⟨u, hu, (exec_showsCompletion hu).codes.imp And.left And.left, ?_⟩
  rw [run_of_step _ (step_asmCmd hb hi)]
  exact run_asmWait (State.accept_busy _ _) rfl (decode_encode i) rfl hu

/-- Settles O26. -/
theorem vencLengthIsLeast : Obligations.VencLengthIsLeast := by
  intro v
  obtain ⟨hfits, hleast⟩ := venc_length_least v
  exact ⟨fun hv => le_antisymm (hleast 1 le_rfl hv) (venc_length_pos v), hfits, hleast, venc_length_le v⟩

/-- Settles O27. -/
theorem vdecDecodesTerminatedVarint : Obligations.VdecDecodesTerminatedVarint :=
  fun _ m hn hm hat hv => exec_vdec_decoded m hn (vdec_ok hat (Nat.add_le_add_left hm _) hv)

/-- Settles O35: each of the two varints has 1 to 10 bytes. -/
theorem headerLengthIsBounded : Obligations.HeaderLengthIsBounded := by
  intro h
  refine ⟨headerBytes_length_noPayload, fun h2 => ?_⟩
  have hlen := headerBytes_length_withPayload h2
  have := venc_length_pos h.psize
  have := venc_length_pos h.pcrc
  have := venc_length_le h.psize
  have := venc_length_le h.pcrc
  omega

/-- Settles O36: the parse of a good prologue ends after the uuid. -/
theorem hdecDecodesTypeTwoHeader : Obligations.HdecDecodesTypeTwoHeader := by
  intro s hn hg h2
  have h2 : s.bufByte (s.base + 1) = 2 := h2
  have hx := parseHeader_prologueGood hg
  rw [if_pos h2, h2] at hx
  exact ⟨s.windowUuid, exec_hdec_decoded 20 hn hx, fun _ hi => s.extractLsb'_windowUuid hi⟩

/-- Settles O37: the parse of a good prologue goes on with the tail, whose checks all pass. -/
theorem hdecDecodesHeaderWithTail : Obligations.HdecDecodesHeaderWithTail := by
  intro s m n hn hg h2 hlen hsizeTag hcrcTag hsize hsizeFits hcrc hcrcFits
  have htail : s.TailAt (s.base + 20) m n := ⟨hsizeTag, hsize, hsizeFits, hcrcTag, hcrc, hcrcFits⟩
  have hend : s.base + 20 + 4 + m + n ≤ s.windowEnd := by
    show s.addr.toNat + 20 + 4 + m + n ≤ s.addr.toNat + s.len.toNat
    omega
  have hlast : s.base + 20 + 4 + m + n = s.base + (24 + m + n) := by omega
  have h2 : s.bufByte (s.base + 1) ≠ 2 := h2
  have hx := parseHeader_prologueGood hg
  rw [if_neg h2, parseTail_ok _ _ htail hend, hlast] at hx
  exact ⟨s.windowUuid, exec_hdec_decoded (24 + m + n) hn hx, fun _ hi => s.extractLsb'_windowUuid hi⟩

/-- Settles O3: six words are the encodings of their commands; each refused word fails one check of the decoder. -/
theorem wordsOfTheMapDecode : Obligations.WordsOfTheMapDecode :=
  ⟨decode_encode .nop, decode_encode .crcInit, decode_encode .crc16, decode_encode (.reflect 16),
    decode_encode .vdec, decode_encode .hdec, rfl, rfl, rfl⟩

/-- Settles O14. -/
theorem nopOnlyCompletes : Obligations.NopOnlyCompletes := by
  refine ⟨rfl, fun s => s.complete_ok_unread s, fun w hop hne => ?_⟩
  rw [Bool.eq_false_iff]
  intro hl
  obtain ⟨i, -, rfl⟩ := legalWord_iff.1 hl
  have hi : i = .nop := nop_of_opcode ((fieldOp_encode i).symm.trans hop)
  exact hne (by rw [hi]; rfl)

end Sys2Proof.Machine
end

section
/-!
SUPPORT. What a turn answers: the idle engine, every engine's turn and every turn of the outside world
(40_control.md R102, R105, 60_exceptions.md R208), and what an error leaves as it was (R203).
-/

namespace Sys2Proof.Machine

/-- With no command pending `Execute` is not enabled (R102). -/
theorem engineTurn_idle {s : State} (hb : s.busy = false) : engineTurn s = .next s :=
  if_neg (Bool.eq_false_iff.1 hb)

/-- The engine's turn always answers a next state: idle, disturbed, rejected or executed (R103, R105). -/
theorem engineTurn_answers (s : State) : ∃ t, engineTurn s = .next t := by
  obtain ⟨-, he⟩ | ⟨-, -, he⟩ | ⟨-, -, -, he⟩ | ⟨-, -, i, -, he⟩ := engineTurn_cases s
  · exact ⟨_, he⟩
  · exact ⟨_, he⟩
  · exact ⟨_, he⟩
  · rw [he]
    exact exec_answers i s

theorem takeTurn_answers (x : Input) (s : State) : ∃ t, takeTurn x s = .next t := by
  cases x with
  | host a => exact ⟨_, rfl⟩
  | engine => exact engineTurn_answers s
  | reset => exact ⟨_, rfl⟩
  | powerOn => exact ⟨_, rfl⟩

/-- A command that shows an error has raised one: a commit shows success (R104). -/
theorem exec_raised {i : Instr} {s t : State} (h : exec i s = .next t) (hs : t.status = statusError) :
    ∃ e, bodyOf i s = .error e ∧
      t = (s.report e.kind e.addr).setFault (s.faultAfterReads s.base (e.readTo - s.base)) := by
  rw [exec_eq_complete] at h
  obtain ⟨c, -, rfl⟩ | he := State.complete_cases h
  · exact absurd (show statusDone = statusError from hs) (by decide)
  · exact he

end Sys2Proof.Machine
end

section
/-!
PROOFS. The statements about control: the idle engine, that every step answers, and errors.
-/

namespace Sys2Proof.Machine

/-- Settles O11: what a raised error reports is all that it leaves in the state. -/
theorem errorsCommitNothing : Obligations.ErrorsCommitNothing := by
  intro i s t h hs
  obtain ⟨e, -, rfl⟩ := exec_raised h hs
  rfl

/-- Settles O9: the step is the engine's turn, or the first turn of the outside world. -/
theorem everyStepAnswersNext : Obligations.EveryStepAnswersNext := by
  intro s
  cases hi : s.inputs with
  | nil =>
    rw [step_engine (.inl hi)]
    exact engineTurn_answers _
  | cons x ts =>
    rw [step_turn hi]
    exact takeTurn_answers x _

/-- Settles O6. -/
theorem idleEngineChangesNothing : Obligations.IdleEngineChangesNothing :=
  fun _ he hb => (step_engine he).trans (engineTurn_idle hb)

end Sys2Proof.Machine
end

section
/-!
SUPPORT. The CRC seen through its final reflection is the right-shift form (41_crc16.md R129), which is linear and
forgets nothing of the register or of the byte (R130, R131).
-/

namespace Sys2Proof.Machine

/-! ### Reflection (R120) -/

theorem reflect_xor {n : Nat} (a b : BitVec n) {w : Nat} (hw : w ≤ n) :
    reflect (a ^^^ b) w = reflect a w ^^^ reflect b w := by
  refine BitVec.eq_of_getLsbD_eq fun j _ => ?_
  simp only [BitVec.getLsbD_xor, reflect_getLsbD _ w j hw, Bool.and_xor_distrib_left]

/-- A left shift of the register is a right shift of its reflection. -/
theorem reflect_shiftLeft_one (c : Half) : reflect (c <<< 1) 16 = reflect c 16 >>> 1 := by
  refine BitVec.eq_of_getLsbD_eq fun j hj => ?_
  simp only [reflect_getLsbD _ 16 _ le_rfl, BitVec.getLsbD_ushiftRight, BitVec.getLsbD_shiftLeft]
  by_cases h15 : j < 15
  · rw [show 16 - 1 - (1 + j) = 16 - 1 - j - 1 by omega]
    simp [show 1 + j < 16 by omega, show 15 - j < 16 by omega, show ¬ 15 - j < 1 by omega, hj]
  · simp [show 16 - 1 - j = 0 by omega, show ¬ 1 + j < 16 by omega]

theorem State.crcResult_eq (s : State) : s.crcResult = reflect s.crc 16 := BitVec.xor_zero

theorem crc16_eq (bs : List Byte) : crc16 bs = reflect (crcFold 0 bs) 16 := BitVec.xor_zero

theorem State.valByte_eq (s : State) : s.valByte = s.val.setWidth 8 :=
  (BitVec.setWidth_eq_extractLsb' (by decide)).symm

/-! ### The right-shift form (R129) -/

theorem reflect_crcPoly : reflect crcPoly 16 = 0xA001 := by decide

/-- One left shift with the next bit of a byte, reflected, is one right shift of the register that the whole byte has
been XORed into: what is left of the byte stays in the XOR. -/
theorem crcRightShift_xor_byte (c : Half) (v : Byte) :
    crcRightShift (reflect c 16 ^^^ v.setWidth 16) =
      reflect (crcShift c (v.getLsbD 0)) 16 ^^^ (v >>> 1).setWidth 16 := by
  have hbit : (reflect c 16 ^^^ v.setWidth 16).getLsbD 0 = (c.getLsbD 15 ^^ v.getLsbD 0) := by
    rw [BitVec.getLsbD_xor, reflect_getLsbD c 16 0 le_rfl, BitVec.getLsbD_setWidth]
    rfl
  have hshift : (reflect c 16 ^^^ v.setWidth 16) >>> 1 = reflect (c <<< 1) 16 ^^^ (v >>> 1).setWidth 16 := by
    rw [BitVec.ushiftRight_xor_distrib, reflect_shiftLeft_one, BitVec.setWidth_ushiftRight (by decide)]
  rw [crcRightShift, crcShift, hbit, hshift]
  split
  · rw [reflect_xor _ _ le_rfl, BitVec.xor_assoc, BitVec.xor_assoc, BitVec.xor_comm (reflect crcPoly 16)]
  · rfl

/-- The last `i` shifts of a byte, reflected, are `i` right shifts of the register with the bits of the byte that have
not been fed. -/
theorem reflect_crcShifts (b : Byte) {i : Nat} (hi : i ≤ 8) (c : Half) :
    reflect (crcShifts (reflect b 8) i c) 16 =
      crcRightShift^[i] (reflect c 16 ^^^ (b >>> (8 - i)).setWidth 16) := by
  induction i generalizing c with
  | zero => rw [BitVec.ushiftRight_eq_zero le_rfl, BitVec.setWidth_zero, BitVec.xor_zero]; rfl
  | succ i ih =>
    have hbit : (reflect b 8).getLsbD i = (b >>> (8 - (i + 1))).getLsbD 0 := by
      rw [reflect_getLsbD _ 8 i le_rfl, BitVec.getLsbD_ushiftRight, show 8 - (i + 1) + 0 = 8 - 1 - i by omega]
      simp [show i < 8 by omega]
    have hrest : b >>> (8 - i) = b >>> (8 - (i + 1)) >>> 1 := by
      rw [← BitVec.shiftRight_add, show 8 - (i + 1) + 1 = 8 - i by omega]
    rw [crcShifts, ih (by omega), Function.iterate_succ_apply, crcRightShift_xor_byte, hbit, hrest]

theorem crcRightStep_eq (c : Half) (b : Byte) : crcRightStep c b = crcRightShift^[8] (c ^^^ b.setWidth 16) := rfl

theorem reflect_crcStep (c : Half) (b : Byte) : reflect (crcStep c b) 16 = crcRightStep (reflect c 16) b := by
  rw [crcStep, reflect_crcShifts b le_rfl, crcRightStep_eq, Nat.sub_self, BitVec.ushiftRight_zero]

theorem reflect_crcFold (c : Half) (bs : List Byte) :
    reflect (crcFold c bs) 16 = bs.foldl crcRightStep (reflect c 16) :=
  (List.foldl_hom (reflect · 16) fun c b => (reflect_crcStep c b).symm).symm

theorem crc16_eq_crcRight (bs : List Byte) : crc16 bs = crcRight bs :=
  (crc16_eq bs).trans (reflect_crcFold 0 bs)

/-- The CRC of the empty list (R130). -/
theorem crc16_nil : crc16 [] = 0 := crc16_eq_crcRight []

/-! ### The fold (R130, R132) -/

/-- The split law (R132). -/
theorem crcFold_append (c : Half) (as bs : List Byte) : crcFold c (as ++ bs) = crcFold (crcFold c as) bs :=
  List.foldl_append

theorem crcStep_zero : crcStep 0 0 = 0 := by decide

theorem crcFold_replicate_zero (k : Nat) : crcFold 0 (List.replicate k 0#8) = 0 := by
  induction k with
  | zero => rfl
  | succ k ih =>
    calc crcFold 0 (List.replicate (k + 1) 0#8) = crcFold (crcStep 0 0) (List.replicate k 0#8) := rfl
      _ = 0 := by rw [crcStep_zero, ih]

/-! ### Linearity (R131) -/

theorem crcRightShift_xor (a b : Half) : crcRightShift (a ^^^ b) = crcRightShift a ^^^ crcRightShift b := by
  have hswap (x y p : Half) : x ^^^ y ^^^ p = x ^^^ p ^^^ y := by ac_rfl
  have hcancel (x y p : Half) : x ^^^ y = x ^^^ p ^^^ (y ^^^ p) :=
    calc x ^^^ y = x ^^^ y ^^^ (p ^^^ p) := by rw [BitVec.xor_self, BitVec.xor_zero]
      _ = x ^^^ p ^^^ (y ^^^ p) := by ac_rfl
  simp only [crcRightShift, BitVec.ushiftRight_xor_distrib, BitVec.getLsbD_xor]
  cases a.getLsbD 0 <;> cases b.getLsbD 0
  · rfl
  · exact BitVec.xor_assoc _ _ _
  · exact hswap _ _ _
  · exact hcancel _ _ _

theorem crcRightStep_xor (c d : Half) (a b : Byte) :
    crcRightStep (c ^^^ d) (a ^^^ b) = crcRightStep c a ^^^ crcRightStep d b := by
  have hlin : Function.Semiconj₂ crcRightShift^[8] (· ^^^ ·) (· ^^^ ·) :=
    Function.Semiconj₂.iterate crcRightShift_xor 8
  have hargs : c ^^^ d ^^^ (a ^^^ b).setWidth 16 = (c ^^^ a.setWidth 16) ^^^ (d ^^^ b.setWidth 16) := by
    rw [BitVec.setWidth_xor]
    ac_rfl
  rw [crcRightStep_eq, hargs]
  exact hlin _ _

theorem foldl_crcRightStep_xor (c d : Half) {as bs : List Byte} (h : as.length = bs.length) :
    (List.zipWith (· ^^^ ·) as bs).foldl crcRightStep (c ^^^ d) =
      as.foldl crcRightStep c ^^^ bs.foldl crcRightStep d := by
  induction as generalizing c d bs with
  | nil =>
    obtain rfl := List.length_eq_zero_iff.1 h.symm
    rfl
  | cons a as ih =>
    obtain ⟨b, bs, rfl⟩ := List.exists_cons_of_length_eq_add_one h.symm
    simp only [List.zipWith_cons_cons, List.foldl_cons, crcRightStep_xor]
    exact ih _ _ (Nat.succ.inj h)

/-! ### No byte is forgotten (R131) -/

/-- The bit shifted out is the top bit of the result, since 0xA001 has its top bit set. -/
theorem crcRightShift_injective : Function.Injective crcRightShift := by
  have htop (x : Half) : (crcRightShift x).getLsbD 15 = x.getLsbD 0 := by
    unfold crcRightShift
    split
    · rename_i hx
      rw [hx, reflect_crcPoly]
      simp
    · rename_i hx
      simpa using hx
  intro x y h
  have h0 : x.getLsbD 0 = y.getLsbD 0 := by rw [← htop, h, htop]
  have hshift : x >>> 1 = y >>> 1 := by
    rw [crcRightShift, crcRightShift, h0] at h
    split at h
    · exact (BitVec.xor_left_inj _).1 h
    · exact h
  refine BitVec.eq_of_getLsbD_eq fun j _ => ?_
  cases j with
  | zero => exact h0
  | succ j => simpa [Nat.add_comm 1] using congrArg (BitVec.getLsbD · j) hshift

theorem crcRightStep_injective_left (b : Byte) : Function.Injective (crcRightStep · b) :=
  fun _ _ h => (BitVec.xor_left_inj _).1 (crcRightShift_injective.iterate 8 h)

theorem crcRightStep_injective_right (c : Half) : Function.Injective (crcRightStep c) := by
  intro a b h
  have hw := (BitVec.xor_right_inj _).1 (crcRightShift_injective.iterate 8 h)
  have hb (x : Byte) : (x.setWidth 16).setWidth 8 = x := by
    rw [BitVec.setWidth_setWidth_of_le x (by decide), BitVec.setWidth_eq]
  rw [← hb a, hw, hb]

theorem foldl_crcRightStep_injective (bs : List Byte) :
    Function.Injective fun c => bs.foldl crcRightStep c := by
  induction bs with
  | nil => exact fun _ _ h => h
  | cons b bs ih => exact ih.comp (crcRightStep_injective_left b)

/-- The CRC detects every change within one byte. -/
theorem crcRight_set_injective (bs : List Byte) {k : Nat} (h : k < bs.length) :
    Function.Injective fun b => crcRight (bs.set k b) := by
  intro a b hab
  simp only [crcRight, List.set_eq_take_append_cons_drop, if_pos h, List.foldl_append, List.foldl_cons] at hab
  exact crcRightStep_injective_right _ (foldl_crcRightStep_injective _ hab)

/-- Flipping one bit of a byte changes it. -/
theorem xor_shiftLeft_ne_self (b : Byte) {j : Nat} (h : j < 8) : b ^^^ (1#8 <<< j) ≠ b := by
  intro hb
  have hj := congrArg (BitVec.getLsbD · j) hb
  simp [h] at hj

end Sys2Proof.Machine
end

section
/-!
SUPPORT. The checksum commands, completed (41_crc16.md R122 to R126).
-/

namespace Sys2Proof.Machine

/-- A range that does not fit in BUF: BufferRange with error address ADDR, and no byte read (R54, R201). -/
theorem State.complete_ranged_outside {s : State} {n : Nat} (b : Body) (h : Config.bufBytes < s.base + n) :
    s.complete (s.ranged n b) =
      .next { s with status := statusError, errcode := errCode .bufferRange, erraddr := s.addr } := by
  have ha : BitVec.ofNat 32 s.base = s.addr := BitVec.ofNat_toNat _ _ |>.trans (BitVec.setWidth_eq _)
  rw [State.ranged_outside b h, State.complete_error_unread, State.report, ha]

/-- CRC_BUF and CRC16 where the window is in BUF: the fold from the register the command starts with (R124, R125). -/
theorem complete_crcWindowBody_inside {s : State} (c : Half) (h : s.windowEnd ≤ Config.bufBytes) :
    s.complete (crcWindowBody s c) = .next { s with
      crc := crcFold c s.window, cnt := s.len, status := statusDone, errcode := 0, erraddr := 0,
      fault := s.faultAfterReads s.base s.len.toNat } := by
  have hread : s.windowEnd - s.base = s.len.toNat := Nat.add_sub_cancel_left _ _
  rw [crcWindowBody, State.ranged_inside _ h, State.complete_ok, hread]
  rfl

/-- The CRC that CRC_BUF leaves with its window, the `n` bytes from `a` on, in BUF (R124). -/
theorem exec_crcBuf_crc {s t : State} {addr len : Word} {a n : Nat}
    (h : exec .crcBuf { s with addr := addr, len := len } = .next t) (ha : addr.toNat = a) (hl : len.toNat = n)
    (hn : a + n ≤ Config.bufBytes) : t.crc = crcFold s.crc (s.memRead a n) := by
  subst ha hl
  obtain ⟨⟩ := h.symm.trans (complete_crcWindowBody_inside s.crc hn)
  rfl

end Sys2Proof.Machine
end

section
/-!
PROOFS. The statements about the checksum engine: its functions and its commands.
-/

namespace Sys2Proof.Machine

/-- Settles O17: a byte fed into CRC is a right-shift step on the reflected register. -/
theorem crcByteIsRightShiftStep : Obligations.CrcByteIsRightShiftStep := by
  intro s
  refine ⟨_, s.complete_ok_unread _, ?_⟩
  rw [State.crcResult_eq, State.crcResult_eq, ← s.valByte_eq]
  exact reflect_crcStep s.crc s.valByte

/-- Settles O18: the window is in BUF, or the range check fails. -/
theorem crcBufFeedsWindow : Obligations.CrcBufFeedsWindow :=
  ⟨rfl, fun s hin => complete_crcWindowBody_inside s.crc hin, fun _ hout => State.complete_ranged_outside _ hout⟩

/-- Settles O19: the fold from 0, reflected, is `crc16`, which is the right-shift form. -/
theorem crc16ComputesWindowChecksum : Obligations.Crc16ComputesWindowChecksum := by
  refine ⟨rfl, fun s hin => ?_, fun _ hout => State.complete_ranged_outside _ hout⟩
  exact ⟨_, complete_crcWindowBody_inside crcInitValue hin, rfl, rfl, crc16_eq_crcRight s.window⟩

/-- Settles O20: a legal width reflects VAL bit by bit, and any other is not well-formed. -/
theorem reflectReversesLowBits : Obligations.ReflectReversesLowBits := by
  intro w s
  refine ⟨BitVec.or_comm _ _, fun hlo hhi => ?_, fun hw => ?_⟩
  · refine ⟨reflect s.val w.toNat, ?_, fun j _ => reflect_getLsbD s.val w.toNat j hhi⟩
    rw [exec_eq_complete, bodyOf, reflectBody, if_pos (legalWidth_iff.2 ⟨hlo, hhi⟩), State.complete_ok_unread]
    rfl
  · have hill : (Instr.reflect w).wellFormed = false := by
      rw [Bool.eq_false_iff]
      intro hl
      have := legalWidth_iff.1 hl
      omega
    rw [exec_eq_complete, bodyOf_not_wellFormed s hill, State.complete_error_unread]
    rfl

/-- Settles O21. -/
theorem crc16EqualsRightShiftForm : Obligations.Crc16EqualsRightShiftForm := ⟨reflect_crcPoly, crc16_eq_crcRight⟩

/-- Settles O22: zero bytes leave the register 0. -/
theorem crc16IgnoresLeadingZeros : Obligations.Crc16IgnoresLeadingZeros := by
  refine ⟨crcStep_zero, crc16_nil, fun k bs => ?_⟩
  rw [crc16_eq, crcFold_append, crcFold_replicate_zero, crc16_eq]

/-- Settles O23, by the right-shift form: it is linear, and it sees every change within one byte. -/
theorem crc16IsLinearAndSeesBitFlips : Obligations.Crc16IsLinearAndSeesBitFlips := by
  refine ⟨fun as bs h => ?_, fun bs k j h hj heq => ?_⟩
  · simp only [crc16_eq_crcRight]
    exact foldl_crcRightStep_xor 0 0 h
  · rw [crc16_eq_crcRight, crc16_eq_crcRight] at heq
    have hset : crcRight (bs.set k (bs[k] ^^^ (1#8 <<< j))) = crcRight (bs.set k bs[k]) := by
      rw [heq, List.set_getElem_self]
    exact xor_shiftLeft_ne_self bs[k] hj (crcRight_set_injective bs h hset)

/-- Settles O24: the first command leaves BUF as it was, so the second folds the rest of the union. -/
theorem crcBufSplitsOverAdjacentWindows : Obligations.CrcBufSplitsOverAdjacentWindows := by
  intro s t1 t2 t m n hin h1 h2 h
  have hnat {k : Nat} (hk : k ≤ 65540) : (BitVec.ofNat 32 k).toNat = k := Nat.mod_eq_of_lt (by omega)
  have hcrc1 : t1.crc = crcFold s.crc (s.memRead s.addr.toNat m) :=
    exec_crcBuf_crc h1 rfl (hnat (by omega)) (le_trans (by omega) hin)
  have hcrc2 : t2.crc = crcFold t1.crc (t1.memRead (s.addr.toNat + m) n) :=
    exec_crcBuf_crc h2 (hnat (by omega)) (hnat (by omega)) (le_trans (by omega) hin)
  have hcrc : t.crc = crcFold s.crc (s.memRead s.addr.toNat (m + n)) :=
    exec_crcBuf_crc h rfl (hnat (by omega)) hin
  have hkept : t1.memRead (s.addr.toNat + m) n = s.memRead (s.addr.toNat + m) n :=
    State.memRead_congr fun _ _ => (exec_bytes_kept h1 (by decide) _).1
  rw [hcrc2, hcrc1, hkept, hcrc, State.memRead_append, crcFold_append]

/-- Settles O15: CRC is then as after the empty list. -/
theorem crcInitClearsCrc : Obligations.CrcInitClearsCrc :=
  ⟨rfl, fun s => ⟨s.complete_ok_unread _, crc16_nil⟩⟩

/-- Settles O16. -/
theorem crcByteFeedsLowByte : Obligations.CrcByteFeedsLowByte := by
  refine ⟨rfl, crcStep_zero, fun s => ?_⟩
  rw [← s.valByte_eq]
  exact s.complete_ok_unread _

end Sys2Proof.Machine
end

section
/-!
SUPPORT. VENC, and the two decoding commands where their decoder raises an error (42_varint.md R152 to R157, 43_framer.md
R174, R175).
-/

namespace Sys2Proof.Machine

/-! ### VENC (R152, R153) -/

/-- The encoder's length is the one whose 7-bit groups hold the value and of which none can be left out (R87). -/
theorem venc_length_eq {v : Value} {n : Nat} (hpos : 1 ≤ n) (hfits : v.toNat < 2 ^ (7 * n))
    (hleast : n = 1 ∨ 2 ^ (7 * (n - 1)) ≤ v.toNat) : (venc v).length = n := by
  obtain ⟨hlen, hmin⟩ := venc_length_least v
  refine le_antisymm (hmin n hpos hfits) ?_
  obtain rfl | hge := hleast
  · exact venc_length_pos v
  · have hexp : 7 * (n - 1) < 7 * (venc v).length := (Nat.pow_lt_pow_iff_right (by decide)).1 (hge.trans_lt hlen)
    omega

theorem countOf_toNat {n : Nat} (h : n < 2 ^ 32) : (countOf n).toNat = n := Nat.mod_eq_of_lt h

/-- The state that VENC leaves where its bytes are in BUF (R152). -/
def State.afterVenc (s : State) : State :=
  { s.memWrite s.base (venc s.val) with
    cnt := countOf (venc s.val).length, status := statusDone, errcode := 0, erraddr := 0 }

theorem exec_venc_inside {s : State} (h : s.base + (venc s.val).length ≤ Config.bufBytes) :
    exec .venc s = .next s.afterVenc :=
  State.complete_ranged_write _ h

/-- A VENC that shows success has found its range in BUF. -/
theorem exec_venc_succeeded {s t : State} (h : exec .venc s = .next t) (hs : t.status = statusDone) :
    s.base + (venc s.val).length ≤ Config.bufBytes ∧ t = s.afterVenc := by
  obtain hin | hout := le_or_gt (s.base + (venc s.val).length) Config.bufBytes
  · obtain ⟨⟩ := h.symm.trans (exec_venc_inside hin)
    exact ⟨hin, rfl⟩
  · obtain ⟨⟩ := h.symm.trans (State.complete_ranged_outside _ hout)
    exact absurd (show statusError = statusDone from hs) (by decide)

/-- The decoder on the encoder's bytes, where they stand in BUF (R153). -/
theorem vdec_venc {s : State} {p stop : Nat} {v : Value} (h : s.memRead p (venc v).length = venc v)
    (hs : p + (venc v).length ≤ stop) : vdec s.bufByte p stop = .ok (v, p + (venc v).length) := by
  obtain ⟨hat, hval⟩ := varintAt_venc h
  rw [vdec_ok hat hs (hval ▸ v.isLt), hval, BitVec.ofNat_toNat, BitVec.setWidth_eq]

/-! ### A decoder's error, completed (R104) -/

/-- A window in BUF on which the decoder raises an error: it is reported, with what the decoder has read. -/
theorem State.complete_raised {α : Type} {s : State} {n : Nat} {f : α × Nat → State}
    {x : Except Raise (α × Nat)} {e : Raise} (hn : s.base + n ≤ Config.bufBytes) (hx : x = .error e) :
    s.complete (s.ranged n (decodedBody f x)) =
      .next ((s.report e.kind e.addr).setFault (s.faultAfterReads s.base (e.readTo - s.base))) := by
  subst hx
  rw [State.ranged_inside _ hn, decodedBody, State.complete_error]

/-- VDEC where the decoder raises an error after the `m` bytes from ADDR on. -/
theorem exec_vdec_raised {s : State} {k : ErrKind} {a : Nat} (m : Nat) (hn : s.windowEnd ≤ Config.bufBytes)
    (hx : vdec s.bufByte s.base s.windowEnd = .error { kind := k, addr := a, readTo := s.base + m }) :
    exec .vdec s = .next { s with
      status := statusError, errcode := errCode k, erraddr := BitVec.ofNat 32 a,
      fault := s.faultAfterReads s.base m } := by
  rw [exec_eq_complete, bodyOf, vdecBody_eq, State.complete_raised hn hx, Nat.add_sub_cancel_left]
  rfl

/-- Where the first `n` bytes are written, so are the first `m`. -/
theorem State.allWritten_mono {s : State} {a m n : Nat} (hmn : m ≤ n) (h : s.allWritten a n = true) :
    s.allWritten a m = true :=
  (s.allWritten_iff a m).2 fun k hk => (s.allWritten_iff a n).1 h k (hk.trans_le hmn)

/-- HDEC where the parser raises an error within the window: a window that is all written sets no fault. -/
theorem exec_hdec_raised {s : State} {e : Raise} (hn : s.windowEnd ≤ Config.bufBytes)
    (hx : parseHeader s.bufByte s.windowEnd s.base = .error e) (hr : e.readTo ≤ s.windowEnd) :
    ∃ f, exec .hdec s = .next { s with
        status := statusError, errcode := errCode e.kind, erraddr := BitVec.ofNat 32 e.addr, fault := f } ∧
      (s.allWritten s.base s.len.toNat = true → f = s.fault) := by
  refine ⟨s.faultAfterReads s.base (e.readTo - s.base), ?_, fun hw => ?_⟩
  · rw [exec_eq_complete, bodyOf, hdecBody_eq, State.complete_raised hn hx]
    rfl
  · exact State.faultAfterReads_written (State.allWritten_mono (Nat.sub_le_iff_le_add'.2 hr) hw)

/-! ### The parse after the size tag (R82, R175) -/

/-- The parse of the two varints and the crc tag, from the payload_size varint at `p` on. -/
def parseSizeAndCrc (rd : Nat → Byte) (stop p : Nat) (h : Value → Value → Header) : Except Raise (Header × Nat) :=
  vdec rd p stop >>= fun size => expect rd stop crcTag size.2 >>= fun q =>
    vdec rd q stop >>= fun crc => pure (h size.1 crc.1, crc.2)

theorem parseTail_eq_parseSizeAndCrc {rd : Nat → Byte} {stop p : Nat} (rt : Byte) (u : Uuid) (hs : p + 3 ≤ stop)
    (ht : rd (p + 2) = sizeTag) :
    parseTail rd stop rt u p = parseSizeAndCrc rd stop (p + 3) fun size crc =>
      { rtype := rt, uuid := u, unk1 := rd p, unk2 := rd (p + 1), psize := size, pcrc := crc } := by
  have e1 : take rd stop p = .ok (rd p, p + 1) := take_ok (by omega)
  have e2 : take rd stop (p + 1) = .ok (rd (p + 1), p + 2) := take_ok (by omega)
  have e3 : expect rd stop sizeTag (p + 2) = .ok (p + 3) := expect_ok (by omega) ht
  simp only [parseTail, e1, e2, e3, bind, Except.bind]
  rfl

theorem parseSizeAndCrc_size_raised {rd : Nat → Byte} {stop p : Nat} {h : Value → Value → Header} {e : Raise}
    (hx : vdec rd p stop = .error e) : parseSizeAndCrc rd stop p h = .error e := by
  simp only [parseSizeAndCrc, hx, bind, Except.bind]

theorem parseSizeAndCrc_crcTag_raised {rd : Nat → Byte} {stop p q : Nat} {h : Value → Value → Header} {v : Value}
    {e : Raise} (hsize : vdec rd p stop = .ok (v, q)) (hx : expect rd stop crcTag q = .error e) :
    parseSizeAndCrc rd stop p h = .error e := by
  simp only [parseSizeAndCrc, hsize, hx, bind, Except.bind]

theorem parseSizeAndCrc_crc_raised {rd : Nat → Byte} {stop p q : Nat} {h : Value → Value → Header} {v : Value}
    {e : Raise} (hsize : vdec rd p stop = .ok (v, q)) (htag : expect rd stop crcTag q = .ok (q + 1))
    (hx : vdec rd (q + 1) stop = .error e) : parseSizeAndCrc rd stop p h = .error e := by
  simp only [parseSizeAndCrc, hsize, htag, hx, bind, Except.bind]

/-- A sentinel that is missing, at the window's end, or wrong is reported at its own address (R174). -/
theorem expect_raised {rd : Nat → Byte} {stop p : Nat} {c : Byte} (hp : p ≤ stop) (h : p = stop ∨ rd p ≠ c) :
    ∃ r ≤ stop, expect rd stop c p = .error { kind := .malformedHeader, addr := p, readTo := r } := by
  obtain rfl | hlt := Nat.eq_or_lt_of_le hp
  · exact ⟨p, le_rfl, if_pos le_rfl⟩
  · refine ⟨p + 1, hlt, ?_⟩
    rw [expect, if_neg (Nat.not_le.2 hlt), if_pos (h.resolve_left hlt.ne)]

/-- No terminator from the window's byte `k` to its end (R155). -/
theorem vdec_window_overrun {s : State} {k : Nat} (hk : k ≤ s.len.toNat)
    (h : ∀ j, k ≤ j → j < s.len.toNat → varintMore (s.bufByte (s.base + j)) = true) :
    vdec s.bufByte (s.base + k) s.windowEnd =
      .error { kind := .varintOverrun, addr := s.windowEnd, readTo := s.windowEnd } := by
  refine vdec_overrun (Nat.add_le_add_left hk _) fun a hlo hhi => ?_
  obtain ⟨j, rfl⟩ := Nat.exists_eq_add_of_le ((Nat.le_add_right _ _).trans hlo)
  exact h j (Nat.le_of_add_le_add_left hlo) (Nat.lt_of_add_lt_add_left hhi)

/-- HDEC of a header that is good up to its size tag, where the parse raises an error after it. -/
theorem exec_hdec_raised_after_sizeTag {s : State} {e : Raise} (hn : s.windowEnd ≤ Config.bufBytes)
    (hg : s.prologueGood) (h2 : s.bufByte (s.base + 1) ≠ 2) (hlen : 23 ≤ s.len.toNat)
    (ht : s.bufByte (s.base + 22) = sizeTag)
    (hx : ∀ h, parseSizeAndCrc s.bufByte s.windowEnd (s.base + 23) h = .error e) (hr : e.readTo ≤ s.windowEnd) :
    ∃ f, exec .hdec s = .next { s with
        status := statusError, errcode := errCode e.kind, erraddr := BitVec.ofNat 32 e.addr, fault := f } ∧
      (s.allWritten s.base s.len.toNat = true → f = s.fault) := by
  have hend : s.base + 20 + 3 ≤ s.windowEnd := Nat.add_le_add_left hlen _
  refine exec_hdec_raised hn ?_ hr
  rw [parseHeader_prologueGood hg, if_neg h2, parseTail_eq_parseSizeAndCrc _ _ hend ht]
  exact hx _

end Sys2Proof.Machine
end

section
/-!
PROOFS. The statements about varints in BUF: VENC, the errors of VDEC, and HDEC's errors from the payload_size varint on.
-/

namespace Sys2Proof.Machine

/-- Settles O25: the bytes written are the encoder's, whose number is `n`. -/
theorem vencWritesBaseHundredTwentyEight : Obligations.VencWritesBaseHundredTwentyEight := by
  refine ⟨rfl, fun s n hpos hfits hleast => ?_⟩
  obtain rfl : (venc s.val).length = n := venc_length_eq hpos hfits hleast
  refine ⟨fun hin => ?_, fun hout => State.complete_ranged_outside _ hout⟩
  have h := exec_venc_inside (s := s) hin
  refine ⟨_, h, rfl, fun k hk => ⟨s.written_memWrite_inside s.base _ hk, ?_⟩, fun a ha => exec_bytes_outside h ha⟩
  exact (s.bufByte_memWrite_inside s.base _ hk).trans (venc_getElem s.val hk)

/-- Settles O28: the decoder runs to the window's end. -/
theorem vdecOverrunsWithoutTerminator : Obligations.VdecOverrunsWithoutTerminator :=
  fun s hn h => exec_vdec_raised s.len.toNat hn (vdec_window_overrun (Nat.zero_le _) fun j _ hj => h j hj)

/-- Settles O29. -/
theorem vdecOverflowsAtTwoToSixtyFour : Obligations.VdecOverflowsAtTwoToSixtyFour := by
  intro s m hn hm hat hv
  have h := exec_vdec_raised m hn (vdec_overflow hat (Nat.add_le_add_left hm _) hv)
  rwa [State.base, BitVec.ofNat_toNat, BitVec.setWidth_eq] at h

/-- Settles O30: VENC leaves its bytes written, and VDEC's window is those bytes. -/
theorem vencThenVdecRestoresVal : Obligations.VencThenVdecRestoresVal := by
  intro s t v h hs
  obtain ⟨hin, rfl⟩ := exec_venc_succeeded h hs
  have hcnt : (countOf (venc s.val).length).toNat = (venc s.val).length :=
    countOf_toNat ((venc_length_le s.val).trans_lt (by decide))
  let w : State := { s.afterVenc with val := v, len := s.afterVenc.cnt }
  have hend : w.windowEnd = s.base + (venc s.val).length := congrArg _ hcnt
  have hread : w.memRead s.base (venc s.val).length = venc s.val := s.memRead_memWrite s.base _
  have hwritten : w.allWritten s.base (venc s.val).length = true :=
    (w.allWritten_iff _ _).2 fun k hk => s.written_memWrite_inside s.base _ hk
  exact ⟨_, exec_vdec_decoded (s := w) _ (hend.trans_le hin) (vdec_venc hread hend.ge), rfl, rfl, rfl,
    State.faultAfterReads_written hwritten⟩

/-- Settles O40: the parse stops at the payload_size varint or at the crc tag after it. -/
theorem hdecReportsSizeVarintAndCrcTagErrors : Obligations.HdecReportsSizeVarintAndCrcTagErrors := by
  intro s hn hg h2 hlen ht
  refine ⟨fun h => ?_, fun m hm hat => ⟨fun hv => ?_, fun hv hcrc => ?_⟩⟩
  · exact exec_hdec_raised_after_sizeTag hn hg h2 hlen ht
      (fun _ => parseSizeAndCrc_size_raised (vdec_window_overrun hlen h)) le_rfl
  all_goals have hend : s.base + 23 + m ≤ s.windowEnd := by rw [Nat.add_assoc]; exact Nat.add_le_add_left hm _
  · exact exec_hdec_raised_after_sizeTag hn hg h2 hlen ht
      (fun _ => parseSizeAndCrc_size_raised (vdec_overflow hat hend hv)) hend
  · have htag : s.base + 23 + m = s.windowEnd ∨ s.bufByte (s.base + 23 + m) ≠ crcTag :=
      hcrc.imp_left fun h => by rw [State.windowEnd, h, ← Nat.add_assoc]; rfl
    obtain ⟨r, hr, hx⟩ := expect_raised hend htag
    exact exec_hdec_raised_after_sizeTag hn hg h2 hlen ht
      (fun _ => parseSizeAndCrc_crcTag_raised (vdec_ok hat hend hv) hx) hr

/-- Settles O41: the parse stops at the payload_crc varint. -/
theorem hdecReportsCrcVarintErrors : Obligations.HdecReportsCrcVarintErrors := by
  intro s m hn hg h2 hlen ht hat hv hcrcTag
  have hw : s.windowEnd = s.addr.toNat + s.len.toNat := rfl
  have hnext : s.addr.toNat + 24 + m = s.addr.toNat + 23 + m + 1 := by omega
  have hlt : s.addr.toNat + 23 + m < s.windowEnd := by omega
  have hsize := vdec_ok hat hlt.le hv
  have htag := expect_ok hlt hcrcTag
  refine ⟨fun h => ?_, fun n hm hcrc hov => ?_⟩
  · have hx := vdec_window_overrun hlen h
    rw [State.base, ← Nat.add_assoc, hnext] at hx
    exact exec_hdec_raised_after_sizeTag hn hg h2 (by omega) ht
      (fun _ => parseSizeAndCrc_crc_raised hsize htag hx) le_rfl
  · rw [hnext] at hcrc hov ⊢
    have hend : s.addr.toNat + 23 + m + 1 + n ≤ s.windowEnd := by omega
    exact exec_hdec_raised_after_sizeTag hn hg h2 (by omega) ht
      (fun _ => parseSizeAndCrc_crc_raised hsize htag (vdec_overflow hcrc hend hov)) hend

end Sys2Proof.Machine
end

section
/-!
SUPPORT. The outer frame and the header in BUF: the encoders' bytes read back (20_memory.md R51, 43_framer.md R170 to
R177), and the parser where a check of its fixed fields fails (R174, R175).
-/

namespace Sys2Proof.Machine

/-! ### The encoders, completed (R104) -/

/-- The state that an encoder leaves where its bytes are in BUF (R173, R176). -/
def State.afterWrite (s : State) (bs : List Byte) : State :=
  { s.memWrite s.base bs with cnt := countOf bs.length, status := statusDone, errcode := 0, erraddr := 0 }

@[simp] theorem State.afterWrite_addr (s : State) (bs : List Byte) : (s.afterWrite bs).addr = s.addr := rfl

@[simp] theorem State.afterWrite_cnt (s : State) (bs : List Byte) : (s.afterWrite bs).cnt = countOf bs.length := rfl

@[simp] theorem State.afterWrite_fault (s : State) (bs : List Byte) : (s.afterWrite bs).fault = s.fault := rfl

/-- BUF, CNT and the completion's registers are all that an encoder changes. -/
theorem State.afterWrite_eq_update (s : State) (bs : List Byte) : s.afterWrite bs = { s with
    buf := (s.afterWrite bs).buf, cnt := countOf bs.length, status := statusDone, errcode := 0, erraddr := 0 } := rfl

/-- The bytes `bs` stand at ADDR in BUF, each of them written. -/
structure State.Holds (s : State) (bs : List Byte) : Prop where
  inside : s.base + bs.length ≤ Config.bufBytes
  bytes : s.memRead s.base bs.length = bs
  written : s.allWritten s.base bs.length = true

/-- What an encoder has written stands in every later state with that BUF and ADDR. -/
theorem State.Holds.of_afterWrite {s w : State} {bs : List Byte} (hin : s.base + bs.length ≤ Config.bufBytes)
    (hbuf : w.buf = (s.afterWrite bs).buf) (haddr : w.addr = s.addr) : w.Holds bs := by
  have hbase : w.base = s.base := congrArg BitVec.toNat haddr
  have hlookup (k : Nat) (hk : k < bs.length) : Memory.lookup w.buf (w.base + k) = some bs[k] := by
    rw [hbuf, hbase]
    exact Memory.lookup_storeBytes_inside bs s.buf s.base hk
  refine ⟨hbase ▸ hin, List.ext_getElem (w.memRead_length _ _) fun k _ hk => ?_, ?_⟩
  · simp [State.getElem_memRead, State.bufByte, hlookup k hk]
  · exact (w.allWritten_iff _ _).2 fun k hk => by simp [State.written, hlookup k hk]

/-- A ranged write that shows success has found its range in BUF. -/
theorem State.complete_ranged_write_succeeded {s t : State} {bs : List Byte}
    (h : s.complete (s.ranged bs.length
      (.ok { state := { s.memWrite s.base bs with cnt := countOf bs.length }, readTo := 0 })) = .next t)
    (hs : t.status = statusDone) : s.base + bs.length ≤ Config.bufBytes ∧ t = s.afterWrite bs := by
  obtain hin | hout := le_or_gt (s.base + bs.length) Config.bufBytes
  · obtain ⟨⟩ := h.symm.trans (State.complete_ranged_write bs hin)
    exact ⟨hin, rfl⟩
  · obtain ⟨⟩ := h.symm.trans (State.complete_ranged_outside _ hout)
    exact absurd (show statusError = statusDone from hs) (by decide)

theorem exec_ofenc_succeeded {s t : State} (h : exec .ofenc s = .next t) (hs : t.status = statusDone) :
    s.base + frameBytes ≤ Config.bufBytes ∧ t = s.afterWrite (oframe s.hcrc s.hlen) :=
  State.complete_ranged_write_succeeded (bs := oframe s.hcrc s.hlen) h hs

theorem exec_henc_inside {s : State} (h : s.base + (headerBytes s.header).length ≤ Config.bufBytes) :
    exec .henc s = .next (s.afterWrite (headerBytes s.header)) :=
  State.complete_ranged_write _ h

theorem exec_henc_succeeded {s t : State} (h : exec .henc s = .next t) (hs : t.status = statusDone) :
    s.base + (headerBytes s.header).length ≤ Config.bufBytes ∧ t = s.afterWrite (headerBytes s.header) :=
  State.complete_ranged_write_succeeded h hs

/-! ### A run of bytes in BUF, taken apart -/

theorem State.memRead_eq_cons {s : State} {a : Nat} {b : Byte} {bs : List Byte} :
    s.memRead a (b :: bs).length = b :: bs ↔ s.bufByte a = b ∧ s.memRead (a + 1) bs.length = bs := by
  simp [State.memRead, List.range'_succ]

theorem State.memRead_eq_append {s : State} {a : Nat} {as bs : List Byte} :
    s.memRead a (as ++ bs).length = as ++ bs ↔
      s.memRead a as.length = as ∧ s.memRead (a + as.length) bs.length = bs := by
  rw [List.length_append, State.memRead_append]
  exact ⟨fun h => List.append_inj h (s.memRead_length _ _), fun ⟨h1, h2⟩ => by rw [h1, h2]⟩

/-! ### OFDEC (R172) -/

theorem be16_hiByte_loByte (v : Half) : be16 (hiByte v) (loByte v) = v := by
  apply BitVec.eq_of_toNat_eq
  rw [be16_toNat, hiByte_toNat, loByte_toNat]
  omega

theorem exec_ofdec_marker {s : State} (hin : s.base + frameBytes ≤ Config.bufBytes)
    (hm : s.bufByte s.base = outerMarker) : exec .ofdec s = .next { s with
      hcrc := be16 (s.bufByte (s.base + 1)) (s.bufByte (s.base + 2)),
      hlen := be16 (s.bufByte (s.base + 3)) (s.bufByte (s.base + 4)),
      cnt := countOf frameBytes, status := statusDone, errcode := 0, erraddr := 0,
      fault := s.faultAfterReads s.base frameBytes } := by
  rw [exec_eq_complete, bodyOf, ofdecBody, State.ranged_inside _ hin, if_neg (not_not.2 hm), State.complete_ok,
    Nat.add_sub_cancel_left]
  rfl

theorem exec_ofdec_malformed {s : State} (hin : s.base + frameBytes ≤ Config.bufBytes)
    (hm : s.bufByte s.base ≠ outerMarker) : exec .ofdec s = .next { s with
      status := statusError, errcode := errCode .malformedFrame, erraddr := s.addr,
      fault := s.faultAfterReads s.base frameBytes } := by
  have ha : BitVec.ofNat 32 s.base = s.addr := BitVec.ofNat_toNat _ _ |>.trans (BitVec.setWidth_eq _)
  rw [exec_eq_complete, bodyOf, ofdecBody, State.ranged_inside _ hin, if_pos hm, State.complete_error, State.report,
    ha, Nat.add_sub_cancel_left]
  rfl

/-- OFDEC on the bytes of an outer frame (R173). -/
theorem exec_ofdec_oframe {s : State} {hc hl : Half} (h : s.Holds (oframe hc hl)) :
    exec .ofdec s = .next { s with
      hcrc := hc, hlen := hl, cnt := countOf frameBytes, status := statusDone, errcode := 0, erraddr := 0 } := by
  obtain ⟨hin, hbytes, hw⟩ := h
  simp only [oframe, State.memRead_eq_cons] at hbytes
  obtain ⟨hm, h1, h2, h3, h4, -⟩ := hbytes
  rw [exec_ofdec_marker hin hm, h1, h2, h3, h4, be16_hiByte_loByte, be16_hiByte_loByte,
    State.faultAfterReads_written (n := frameBytes) hw]

/-! ### The parser on a header's own bytes (R177) -/

theorem uuidOfBytes_uuidBytes (u : Uuid) : uuidOfBytes (uuidBytes u) = u := by
  apply BitVec.eq_of_getLsbD_eq
  intro j hj
  have hbyte : (uuidOfBytes (uuidBytes u)).extractLsb' (8 * (j / 8)) 8 = u.extractLsb' (8 * (j / 8)) 8 := by
    rw [extractLsb'_uuidOfBytes (uuidBytes_length u).le (by rw [uuidBytes_length]; omega)]
    simp [uuidBytes, uuidByte]
  have hbit := congrArg (fun b => BitVec.getLsbD b (j % 8)) hbyte
  simpa [BitVec.getLsbD_extractLsb', Nat.mod_lt, Nat.div_add_mod] using hbit

theorem State.uuidOfBytes_of_memRead {s : State} {p : Nat} {u : Uuid}
    (h : s.memRead p (uuidBytes u).length = uuidBytes u) :
    uuidOfBytes ((List.range 16).map (fun i => s.bufByte (p + i))) = u := by
  rw [uuidBytes_length, State.memRead, List.range'_eq_map_range, List.map_map] at h
  exact (congrArg uuidOfBytes h).trans (uuidOfBytes_uuidBytes u)

theorem parseTail_tailBytes {s : State} {h : Header} {p stop : Nat}
    (hread : s.memRead p (tailBytes h).length = tailBytes h) (hs : p + (tailBytes h).length ≤ stop) :
    parseTail s.bufByte stop h.rtype h.uuid p = .ok (h, p + (tailBytes h).length) := by
  rw [tailBytes_length] at hs ⊢
  simp only [tailBytes, List.append_assoc, State.memRead_eq_append, State.memRead_eq_cons, List.cons_append,
    List.nil_append] at hread
  obtain ⟨h1, h2, hsize, hps, hcrc, hpc⟩ := hread
  have e1 : take s.bufByte stop p = .ok (h.unk1, p + 1) := h1 ▸ take_ok (by omega)
  have e2 : take s.bufByte stop (p + 1) = .ok (h.unk2, p + 2) := h2 ▸ take_ok (by omega)
  have e3 : expect s.bufByte stop sizeTag (p + 2) = .ok (p + 3) := expect_ok (by omega) hsize
  have e4 := vdec_venc (stop := stop) hps (by omega)
  have e5 := expect_ok (stop := stop) (by omega) hcrc
  have e6 := vdec_venc (stop := stop) hpc (by omega)
  have hend : p + (4 + (venc h.psize).length + (venc h.pcrc).length) =
      p + 1 + 1 + 1 + (venc h.psize).length + 1 + (venc h.pcrc).length := by omega
  simp only [parseTail, e1, e2, e3, e4, e5, e6, hend, bind, Except.bind, pure, Except.pure]

/-- What the parser makes of a header's bytes: without a tail "these fields default to zero" (R175). -/
def Header.decoded (h : Header) : Header :=
  if h.rtype = noPayloadType then { h with unk1 := 0, unk2 := 0, psize := 0, pcrc := 0 } else h

theorem Header.decoded_noPayload {h : Header} (h2 : h.rtype = noPayloadType) :
    h.decoded = { h with unk1 := 0, unk2 := 0, psize := 0, pcrc := 0 } := if_pos h2

theorem Header.decoded_withPayload {h : Header} (h2 : h.rtype ≠ noPayloadType) : h.decoded = h := if_neg h2

theorem headerBytes_length_ge (h : Header) : 20 ≤ (headerBytes h).length := by
  simp [headerBytes, uuidBytes_length]

theorem parseHeader_headerBytes {s : State} {h : Header}
    (hread : s.memRead s.base (headerBytes h).length = headerBytes h) (hlen : s.len.toNat = (headerBytes h).length) :
    parseHeader s.bufByte s.windowEnd s.base = .ok (h.decoded, s.base + (headerBytes h).length) := by
  have hend : s.windowEnd = s.base + (headerBytes h).length := congrArg _ hlen
  simp only [headerBytes, State.memRead_eq_append, State.memRead_eq_cons, List.cons_append,
    List.nil_append, uuidBytes_length] at hread
  obtain ⟨hA, hrt, hB, hC, huuid, htail⟩ := hread
  have hg : s.prologueGood := ⟨hlen ▸ headerBytes_length_ge h, hA, hB, hC⟩
  have hu := State.uuidOfBytes_of_memRead huuid
  rw [parseHeader_prologueGood hg, hrt, hu]
  obtain h2 | h2 := eq_or_ne h.rtype noPayloadType
  · rw [if_pos (c := h.rtype = 2) h2, Header.decoded_noPayload h2, headerBytes_length_noPayload h2]
  · have hlast : s.base + (headerBytes h).length = s.base + 20 + (tailBytes h).length := by
      rw [headerBytes_length_withPayload h2, tailBytes_length]
      omega
    rw [if_neg h2] at htail
    rw [if_neg (c := h.rtype = 2) h2, Header.decoded_withPayload h2, hlast]
    exact parseTail_tailBytes htail (hlast.ge.trans hend.ge)

/-- HDEC on the bytes of a header, with LEN their number (R177). -/
theorem exec_hdec_headerBytes {s : State} {h : Header} (hs : s.Holds (headerBytes h))
    (hlen : s.len = countOf (headerBytes h).length) :
    exec .hdec s = .next { s.setHeader h.decoded with
      cnt := s.len, status := statusDone, errcode := 0, erraddr := 0 } := by
  have hlen' : s.len.toNat = (headerBytes h).length := by
    rw [hlen, countOf_toNat ((Nat.le_of_add_left_le hs.inside).trans_lt (by decide))]
  have hend : s.windowEnd = s.base + (headerBytes h).length := congrArg _ hlen'
  rw [exec_hdec_decoded _ (hend.trans_le hs.inside) (parseHeader_headerBytes hs.bytes hlen'),
    State.faultAfterReads_written hs.written, hlen]
  rfl

/-! ### The parser where a check of its fixed fields fails (R174, R175) -/

/-- MalformedHeader at address `a`, with no byte read beyond the window's end. -/
def RejectsAt {α : Type} (stop a : Nat) (x : Except Raise α) : Prop :=
  ∃ r ≤ stop, x = .error { kind := .malformedHeader, addr := a, readTo := r }

/-- The first step is the one that fails. -/
theorem RejectsAt.here {α β : Type} {stop a : Nat} {x : Except Raise α} {f : α → Except Raise β}
    (h : RejectsAt stop a x) : RejectsAt stop a (x >>= f) := by
  obtain ⟨r, hr, rfl⟩ := h
  exact ⟨r, hr, rfl⟩

/-- The first step passes, and a later one fails. -/
theorem RejectsAt.after {α β : Type} {stop a : Nat} {x : Except Raise α} {v : α} {f : α → Except Raise β}
    (hx : x = .ok v) (h : RejectsAt stop a (f v)) : RejectsAt stop a (x >>= f) := by
  subst hx
  exact h

theorem expect_rejectsAt_end {rd : Nat → Byte} {stop p : Nat} {c : Byte} (h : p = stop) :
    RejectsAt stop stop (expect rd stop c p) :=
  ⟨p, h.le, if_pos h.ge⟩

theorem expect_rejectsAt_wrong {rd : Nat → Byte} {stop p : Nat} {c : Byte} (hp : p ≤ stop) (h : rd p ≠ c) :
    RejectsAt stop p (expect rd stop c p) :=
  expect_raised hp (.inr h)

theorem take_rejectsAt {rd : Nat → Byte} {stop p : Nat} (h : p = stop) : RejectsAt stop stop (take rd stop p) :=
  ⟨p, h.le, if_pos h.ge⟩

theorem takeUuid_rejectsAt {rd : Nat → Byte} {stop p : Nat} (hp : p ≤ stop) (h : stop < p + 16) :
    RejectsAt stop stop (takeUuid rd stop p) :=
  ⟨p, hp, if_pos h⟩

/-- The first check of the prologue and the uuid that fails decides (R175, R205). -/
theorem parseHeader_rejectsAt {rd : Nat → Byte} {stop p a n : Nat} (hs : stop = p + n)
    (h : (if n = 0 then some stop
      else if rd p ≠ 0x08 then some p
      else if n ≤ 2 then some stop
      else if rd (p + 2) ≠ 0x12 then some (p + 2)
      else if n ≤ 3 then some stop
      else if rd (p + 3) ≠ 0x10 then some (p + 3)
      else if n < 20 then some stop
      else none) = some a) : RejectsAt stop a (parseHeader rd stop p) := by
  have e1 (hn : 0 < n) (hA : rd p = markerA) : expect rd stop markerA p = .ok (p + 1) := expect_ok (by omega) hA
  have e2 (hn : 1 < n) : take rd stop (p + 1) = .ok (rd (p + 1), p + 2) := take_ok (by omega)
  have e3 (hn : 2 < n) (hB : rd (p + 2) = markerB) : expect rd stop markerB (p + 2) = .ok (p + 3) :=
    expect_ok (by omega) hB
  have e4 (hn : 3 < n) (hC : rd (p + 3) = markerC) : expect rd stop markerC (p + 3) = .ok (p + 4) :=
    expect_ok (by omega) hC
  split_ifs at h with h0 hA h2 hB h3 hC h20 <;> cases h
  · exact .here (expect_rejectsAt_end (by omega))
  · exact .here (expect_rejectsAt_wrong (by omega) hA)
  all_goals refine .after (e1 (by omega) (not_not.1 hA)) ?_
  · obtain rfl | rfl : n = 1 ∨ n = 2 := by omega
    · exact .here (take_rejectsAt (by omega))
    · exact .after (e2 (by omega)) (.here (expect_rejectsAt_end (by omega)))
  all_goals refine .after (e2 (by omega)) ?_
  · exact .here (expect_rejectsAt_wrong (by omega) hB)
  all_goals refine .after (e3 (by omega) (not_not.1 hB)) ?_
  · exact .here (expect_rejectsAt_end (by omega))
  · exact .here (expect_rejectsAt_wrong (by omega) hC)
  · exact .after (e4 (by omega) (not_not.1 hC)) (.here (takeUuid_rejectsAt (by omega) (by omega)))

/-- The first check of the unknown bytes and the size tag that fails decides (R175, R205). -/
theorem parseTail_rejectsAt {rd : Nat → Byte} {stop p a n : Nat} (rt : Byte) (u : Uuid) (hs : stop = p + n)
    (h : (if n ≤ 2 then some stop else if rd (p + 2) ≠ 0x28 then some (p + 2) else none) = some a) :
    RejectsAt stop a (parseTail rd stop rt u p) := by
  have e1 (hn : 0 < n) : take rd stop p = .ok (rd p, p + 1) := take_ok (by omega)
  have e2 (hn : 1 < n) : take rd stop (p + 1) = .ok (rd (p + 1), p + 2) := take_ok (by omega)
  split_ifs at h with h2 hT <;> cases h
  · obtain rfl | rfl | rfl : n = 0 ∨ n = 1 ∨ n = 2 := by omega
    · exact .here (take_rejectsAt (by omega))
    · exact .after (e1 (by omega)) (.here (take_rejectsAt (by omega)))
    · exact .after (e1 (by omega)) (.after (e2 (by omega)) (.here (expect_rejectsAt_end (by omega))))
  · exact .after (e1 (by omega)) (.after (e2 (by omega)) (.here (expect_rejectsAt_wrong (by omega) hT)))

/-- HDEC where the parser rejects the header; a window that is all written sets no fault. -/
theorem exec_hdec_rejected {s : State} {a : Nat} (hn : s.windowEnd ≤ Config.bufBytes)
    (h : RejectsAt s.windowEnd a (parseHeader s.bufByte s.windowEnd s.base)) :
    ∃ f, exec .hdec s = .next { s with
        status := statusError, errcode := errCode .malformedHeader, erraddr := BitVec.ofNat 32 a, fault := f } ∧
      (s.allWritten s.base s.len.toNat = true → f = s.fault) := by
  obtain ⟨r, hr, hx⟩ := h
  exact exec_hdec_raised hn hx hr

end Sys2Proof.Machine
end

section
/-!
PROOFS. The statements about the record framer: OFDEC, HENC, HDEC's errors up to the size tag, and the round trips.
-/

namespace Sys2Proof.Machine

/-- Settles O31: the marker decides, where the five bytes are in BUF. -/
theorem ofdecDecodesFrame : Obligations.OfdecDecodesFrame := by
  refine ⟨by decide, fun s hin => ⟨fun hm => ?_, exec_ofdec_malformed hin⟩, fun _ => State.complete_ranged_outside _⟩
  exact ⟨_, _, exec_ofdec_marker hin hm, be16_toNat _ _, be16_toNat _ _⟩

/-- Settles O33: OFENC leaves its five bytes written, and OFDEC reads them. -/
theorem ofencThenOfdecRestoresFields : Obligations.OfencThenOfdecRestoresFields := by
  intro s t hc hl h hs
  obtain ⟨hin, rfl⟩ := exec_ofenc_succeeded h hs
  exact ⟨_, exec_ofdec_oframe (.of_afterWrite hin rfl rfl), rfl, rfl, rfl, rfl, rfl⟩

/-- Settles O34: the list is the header's bytes, read back where they were written. -/
theorem hencWritesHeader : Obligations.HencWritesHeader := by
  refine ⟨by decide, fun s hs heq => ?_⟩
  obtain rfl : hs = headerBytes s.header := heq
  refine ⟨fun hin => ?_, State.complete_ranged_outside _⟩
  have h := exec_henc_inside (s := s) hin
  obtain ⟨-, hbytes, hwritten⟩ := State.Holds.of_afterWrite (w := s.afterWrite (headerBytes s.header)) hin rfl rfl
  exact ⟨_, h, s.afterWrite_eq_update _, hbytes, (State.allWritten_iff _ _ _).1 hwritten,
    fun a ha => exec_bytes_outside h ha⟩

/-- Settles O38: the parse stops at the first check that fails. -/
theorem hdecReportsFirstPrologueError : Obligations.HdecReportsFirstPrologueError :=
  fun _ _ hn h => exec_hdec_rejected hn (parseHeader_rejectsAt rfl h)

/-- Settles O39: the parse of a good prologue goes on with the tail, after 20 bytes of the window. -/
theorem hdecReportsFirstTailFieldError : Obligations.HdecReportsFirstTailFieldError := by
  intro s a hn hg h2 h
  have hlen : 20 ≤ s.len.toNat := hg.1
  have hend : s.windowEnd = s.base + 20 + (s.len.toNat - 20) := by
    rw [State.windowEnd, State.base]
    omega
  refine exec_hdec_rejected hn ?_
  rw [parseHeader_prologueGood hg, if_neg (c := s.bufByte (s.base + 1) = 2) h2]
  refine parseTail_rejectsAt _ _ hend ?_
  rw [← h]
  simp only [Nat.sub_le_iff_le_add]
  rfl

/-- Settles O42: HENC leaves the header's bytes written, and they are HDEC's window. -/
theorem hencThenHdecRestoresRecord : Obligations.HencThenHdecRestoresRecord := by
  intro s t h he hs
  obtain ⟨hin, ht⟩ := exec_henc_succeeded he hs
  have hfault : t.fault = s.fault := by rw [ht, State.afterWrite_fault]
  have hcnt : t.cnt = countOf (headerBytes s.header).length := by rw [ht, State.afterWrite_cnt]
  have hbuf : t.buf = (s.afterWrite (headerBytes s.header)).buf := by rw [ht]
  have haddr : t.addr = s.addr := by rw [ht, State.afterWrite_addr]
  have hx := exec_hdec_headerBytes (s := { t.setHeader h with len := t.cnt }) (.of_afterWrite hin hbuf haddr) hcnt
  obtain h2 | h2 := eq_or_ne s.rtype 2
  · rw [Header.decoded_noPayload (h := s.header) h2] at hx
    exact ⟨_, hx, rfl, rfl, hfault, rfl, rfl, fun hne => absurd h2 hne, fun _ => ⟨rfl, rfl, rfl, rfl⟩⟩
  · rw [Header.decoded_withPayload (h := s.header) h2] at hx
    exact ⟨_, hx, rfl, rfl, hfault, rfl, rfl, fun _ => ⟨rfl, rfl, rfl, rfl⟩, fun heq => absurd heq h2⟩

end Sys2Proof.Machine
end

section
/-!
SUPPORT. The range check of a buffer command, in terms of the length it checks (20_memory.md R55, 60_exceptions.md R201).
-/

namespace Sys2Proof.Machine

/-- A buffer command's pseudocode stands whole behind one range check, of the command's own checked length (R55). -/
theorem bodyOf_eq_ranged {i : Instr} {s : State} {n : Nat} (h : checkedLength i s = some n) :
    ∃ b, bodyOf i s = s.ranged n b := by
  cases i with
  | nop | crcInit | crcByte | reflect => cases h
  | crcBuf | crc16 | venc | vdec | ofdec | ofenc | hdec | henc => cases h; exact ⟨_, rfl⟩

end Sys2Proof.Machine
end

section
/-!
PROOFS. The statement about BufferRange.
-/

namespace Sys2Proof.Machine

/-- Settles O13: everything a buffer command does stands behind its range check, which fails. -/
theorem bufferRangeIsCheckedFirst : Obligations.BufferRangeIsCheckedFirst := by
  intro i s n hn hout
  obtain ⟨b, hb⟩ := bodyOf_eq_ranged hn
  rw [exec_eq_complete, hb]
  exact State.complete_ranged_outside b hout

end Sys2Proof.Machine
end

section
/-!
SUPPORT. What a turn does to the model fault, and what a host write while BUSY = 1 does to the pending command
(70_reset_and_hazards.md R240, R243).
-/

namespace Sys2Proof.Machine

/-! ### The bytes a command reads (R231) -/

/-- Reading a byte not written is a cause of a fault (R231, R243). -/
theorem State.faultAfterReads_unwritten {s : State} {a n : Nat} (h : ¬ s.allWritten a n = true) :
    s.faultAfterReads a n = firstFault s.fault .readUnwritten := if_neg h

/-- Whether a command's bytes are written does not depend on the outside world's turns. -/
theorem State.readsWritten_inputs (i : Instr) (s : State) (ts : List Input) :
    State.readsWritten i { s with inputs := ts } ↔ s.readsWritten i := by
  unfold State.readsWritten
  rw [readLength_inputs]
  exact Iff.rfl

/-- A pending command that reads a byte not written leaves the fault `ReadUnwritten`, if it is the first (R243). -/
theorem exec_fault_unwritten {i : Instr} {s t : State} (h : exec i s = .next t) (hr : ¬ s.readsWritten i) :
    t.fault = firstFault s.fault .readUnwritten :=
  (exec_fault h).trans (State.faultAfterReads_unwritten hr)

/-! ### A host write while BUSY = 1 (R240) -/

/-- The effect that all host writes while BUSY = 1 have in common: STATUS and the turns are as they were, the pending
command is disturbed, and the fault is noted. -/
structure Disturbs (s t : State) : Prop where
  status : t.status = s.status
  inputs : t.inputs = s.inputs
  disturbed : t.disturbed = true
  fault : t.fault = firstFault s.fault .hostAccessWhileBusy

theorem State.disturbs_regWriteBusy (s : State) (n : BitVec 8) : Disturbs s (s.regWriteBusy n) := by
  obtain ⟨r, v, d, hr, h⟩ := s.regWriteBusy_eq n
  rw [h]
  exact ⟨State.setReg_status _ v hr, by simp, by simp, by simp⟩

theorem State.disturbs_bufWriteBusy (s : State) : Disturbs s s.bufWriteBusy := ⟨rfl, rfl, rfl, rfl⟩

theorem State.disturbs_hostAct {s : State} {a : HostAction} (hb : s.busy = true) (hw : isHostWrite (.host a) = true) :
    Disturbs s (s.hostAct a) := by
  cases a with
  | regRead n => cases hw
  | bufRead a => cases hw
  | regWrite n v =>
    rw [show s.hostAct (.regWrite n v) = s.regWriteBusy n from if_pos hb]
    exact s.disturbs_regWriteBusy n
  | bufWrite a b =>
    rw [show s.hostAct (.bufWrite a b) = s.bufWriteBusy from if_pos hb]
    exact s.disturbs_bufWriteBusy

/-! ### The fault after a turn (R233, R243) -/

theorem State.regRead_fault (s : State) (n : BitVec 8) : (s.regRead n).fault = s.fault := by
  unfold State.regRead
  split <;> rfl

theorem State.bufRead_fault (s : State) (a : Word) : (s.bufRead a).fault = s.fault := by
  unfold State.bufRead
  split <;> rfl

theorem State.regWriteIdle_fault (s : State) (n : BitVec 8) (v : Lane) : (s.regWriteIdle n v).fault = s.fault := by
  obtain h | h | ⟨r, -, h⟩ := s.regWriteIdle_cases n v <;> simp [h]

theorem State.bufWriteIdle_fault (s : State) (a : Nat) (b : Byte) : (s.bufWriteIdle a b).fault = s.fault := by
  unfold State.bufWriteIdle
  split <;> rfl

/-- A host action that is not a write while BUSY = 1 leaves the fault. -/
theorem State.hostAct_fault {s : State} {a : HostAction} (h : ¬ (s.busy = true ∧ isHostWrite (.host a) = true)) :
    (s.hostAct a).fault = s.fault := by
  cases a with
  | regRead n => exact s.regRead_fault n
  | bufRead a => exact s.bufRead_fault a
  | regWrite n v =>
    rw [show s.hostAct (.regWrite n v) = s.regWriteIdle n v from if_neg fun hb => h ⟨hb, rfl⟩]
    exact s.regWriteIdle_fault n v
  | bufWrite a b =>
    rw [show s.hostAct (.bufWrite a b) = s.bufWriteIdle a.toNat b from if_neg fun hb => h ⟨hb, rfl⟩]
    exact s.bufWriteIdle_fault a.toNat b

/-- A power-on clears the registers of a state whose BUF is new (R231). -/
theorem State.powerOnReset_eq_clearRegs (s : State) : s.powerOnReset =
    State.clearRegs { s with buf := [], spoiled := [], powerOns := s.powerOns + 1 } := rfl

@[simp] theorem State.abandon_fault (s : State) : s.abandon.fault = s.fault := by
  unfold State.abandon
  split <;> rfl

/-- Either reset clears the registers of a state with the same fault (R230, R233). -/
theorem takeTurn_reset {x : Input} (s : State) (hx : x = .reset ∨ x = .powerOn) :
    ∃ u : State, takeTurn x s = .next u.clearRegs ∧ u.fault = s.fault := by
  obtain rfl | rfl := hx
  · exact ⟨s.abandon, rfl, s.abandon_fault⟩
  · exact ⟨_, congrArg _ s.powerOnReset_eq_clearRegs, rfl⟩

/-- The two causes of a model fault, in the state before the step (R243). -/
inductive FaultCause (s : State) : Fault → Prop where
  | hostWrite {x : Input} {ts : List Input} (hb : s.busy = true) (hi : s.inputs = x :: ts)
      (hw : isHostWrite x = true) : FaultCause s .hostAccessWhileBusy
  | unwrittenRead {i : Instr} (hb : s.busy = true) (he : s.engineNext) (hi : decode s.cmd = .ok i)
      (hr : ¬ s.readsWritten i) : FaultCause s .readUnwritten

/-- The engine's turn leaves the fault, or its command reads a byte not written. -/
theorem engineTurn_fault {s t : State} (h : engineTurn s = .next t) : t.fault = s.fault ∨
    s.busy = true ∧ (∃ i, decode s.cmd = .ok i ∧ ¬ s.readsWritten i) ∧
      t.fault = firstFault s.fault .readUnwritten := by
  obtain ⟨-, he⟩ | ⟨-, -, he⟩ | ⟨-, -, -, he⟩ | ⟨hb, -, i, hi, he⟩ := engineTurn_cases s <;> rw [he] at h
  · cases h
    exact .inl rfl
  · cases h
    exact .inl s.completeDisturbed_fault
  · cases h
    exact .inl rfl
  · by_cases hr : s.readsWritten i
    · exact .inl ((exec_fault h).trans (State.faultAfterReads_written hr))
    · exact .inr ⟨hb, ⟨i, hi, hr⟩, exec_fault_unwritten h hr⟩

theorem step_engine_fault {s t : State} (he : s.engineNext) (h : step s = .next t) :
    t.fault = s.fault ∨ ∃ r, FaultCause s r ∧ t.fault = firstFault s.fault r := by
  rw [step_engine he] at h
  obtain hf | ⟨hb, ⟨i, hi, hr⟩, hf⟩ := engineTurn_fault h
  · exact .inl hf
  · exact .inr ⟨_, .unwrittenRead hb he hi (mt (State.readsWritten_inputs i s _).2 hr), hf⟩

/-- A step leaves the fault, or it has one of the two causes and the first reason stays (R243). -/
theorem step_fault {s t : State} (h : step s = .next t) :
    t.fault = s.fault ∨ ∃ r, FaultCause s r ∧ t.fault = firstFault s.fault r := by
  cases hi : s.inputs with
  | nil => exact step_engine_fault (.inl hi) h
  | cons x ts =>
    cases x with
    | engine => exact step_engine_fault (.inr ⟨ts, hi⟩) h
    | host a =>
      rw [step_turn hi] at h
      cases h
      by_cases hw : s.busy = true ∧ isHostWrite (.host a) = true
      · obtain ⟨hb, hw⟩ := hw
        exact .inr ⟨_, .hostWrite hb hi hw, (State.disturbs_hostAct (s := { s with inputs := ts }) hb hw).fault⟩
      · exact .inl (State.hostAct_fault (s := { s with inputs := ts }) hw)
    | reset =>
      rw [step_turn hi] at h
      cases h
      exact .inl (State.abandon_fault _)
    | powerOn =>
      rw [step_turn hi] at h
      cases h
      exact .inl rfl

end Sys2Proof.Machine
end

section
/-!
SUPPORT. The host's reads while BUSY = 1 (R240), the registers after a reset (R230), and the bytes of BUF after a reset
that is not a power-on (R231, R232).
-/

namespace Sys2Proof.Machine

/-! ### Host reads while BUSY = 1 (R240) -/

theorem State.busyRegValue_lt (s : State) {n : BitVec 8} {r : Reg} (h : regOfNumber n = some r) :
    (s.busyRegValue n).toNat < 2 ^ regWidth r := by
  simp only [State.busyRegValue, h, BitVec.toNat_ofNat]
  exact (Nat.mod_le _ _).trans_lt (Nat.mod_lt _ (Nat.two_pow_pos _))

theorem step_regRead_busy {s : State} {n : BitVec 8} {ts : List Input} (hb : s.busy = true) (hn : n ≠ 1)
    (hi : s.inputs = .host (.regRead n) :: ts) :
    step s = .next { s with inputs := ts, reply := some (.reg (s.busyRegValue n)), draws := s.draws + 1 } := by
  rw [step_turn hi]
  exact congrArg _ (if_pos ⟨hb, hn⟩)

theorem step_bufRead_busy {s : State} {a : Word} {ts : List Input} (hb : s.busy = true)
    (hi : s.inputs = .host (.bufRead a) :: ts) :
    step s = .next { s with
      inputs := ts, reply := some (.byte (s.freeLane.setWidth 8)), draws := s.draws + 1 } := by
  rw [step_turn hi]
  exact congrArg _ (if_pos hb)

/-! ### Registers after a reset (R230) -/

theorem State.regValue_clearRegs (s : State) (n : BitVec 8) : s.clearRegs.regValue n = 0 := by
  have hr : ∀ r, s.clearRegs.readReg r = State.reset.readReg r := fun r => by cases r <;> rfl
  rw [← State.regValue_reset n]
  simp only [State.regValue, hr]

theorem State.busy_clearRegs (s : State) : s.clearRegs.busy = false := by simp [State.busy]

/-! ### BUF after a range has become unspecified (R232) -/

theorem State.written_spoil_inside {s : State} {sp : Span} {a : Nat} (h : inSpan sp a = true) :
    (s.spoil sp).written a = false := by
  simp [State.written, Memory.lookup_forget, h]

theorem State.written_spoil_outside {s : State} {sp : Span} {a : Nat} (h : inSpan sp a = false) :
    (s.spoil sp).written a = s.written a := by
  simp [State.written, Memory.lookup_forget, h]

theorem State.bufByte_spoil_outside {s : State} {sp : Span} {a : Nat} (h : inSpan sp a = false) :
    (s.spoil sp).bufByte a = s.bufByte a := by
  simp [State.bufByte, State.unlistedByte, Memory.lookup_forget, h]

/-! ### BUF after a reset that is not a power-on (R231, R232) -/

theorem State.resetInput_idle {s : State} (hb : s.busy = false) : s.resetInput = s.clearRegs :=
  congrArg State.clearRegs (if_neg (Bool.eq_false_iff.1 hb))

theorem State.resetInput_busy {s : State} (hb : s.busy = true) :
    s.resetInput = (s.spoil s.pendingSpan).clearRegs :=
  congrArg State.clearRegs (if_pos hb)

theorem State.bytes_clearRegs (s : State) (a : Nat) :
    s.clearRegs.bufByte a = s.bufByte a ∧ s.clearRegs.written a = s.written a :=
  ⟨State.bufByte_congr rfl rfl rfl a, State.written_congr rfl a⟩

theorem State.bytes_resetInput_idle {s : State} (hb : s.busy = false) (a : Nat) :
    s.resetInput.bufByte a = s.bufByte a ∧ s.resetInput.written a = s.written a :=
  State.resetInput_idle hb ▸ s.bytes_clearRegs a

/-- Outside the abandoned command's range, a reset keeps each byte and whether it is written. -/
theorem State.bytes_resetInput_outside {s : State} {a : Nat} (hb : s.busy = true)
    (ha : inSpan s.pendingSpan a = false) :
    s.resetInput.bufByte a = s.bufByte a ∧ s.resetInput.written a = s.written a := by
  obtain ⟨hbyte, hwritten⟩ := State.bytes_clearRegs (s.spoil s.pendingSpan) a
  rw [State.resetInput_busy hb]
  exact ⟨hbyte.trans (State.bufByte_spoil_outside ha), hwritten.trans (State.written_spoil_outside ha)⟩

/-- In the abandoned command's range, a reset leaves no byte written. -/
theorem State.written_resetInput_inside {s : State} {a : Nat} (hb : s.busy = true)
    (ha : inSpan s.pendingSpan a = true) : s.resetInput.written a = false := by
  rw [State.resetInput_busy hb]
  exact (State.bytes_clearRegs _ a).2.trans (State.written_spoil_inside ha)

/-- The write range of a pending, undisturbed command is empty unless all of it is in BUF (R62, R232). -/
theorem State.inSpan_pendingSpan {s : State} {i : Instr} (hd : s.disturbed = false) (hi : decode s.cmd = .ok i)
    (a : Nat) : inSpan s.pendingSpan a = true ↔
      s.base + writeLength i s ≤ Config.bufBytes ∧ s.base ≤ a ∧ a < s.base + writeLength i s := by
  have hspan : s.pendingSpan =
      { start := s.base, len := if inRange s.base (writeLength i s) then writeLength i s else 0 } := by
    simp [State.pendingSpan, hd, hi]
  rw [hspan, inSpan_iff, ← inRange_iff]
  cases inRange s.base (writeLength i s) <;> simp

/-- A word that stands for no command has no write range (R232). -/
theorem State.inSpan_pendingSpan_rejected {s : State} {r : Reject} (hd : s.disturbed = false)
    (hi : decode s.cmd = .error r) (a : Nat) : inSpan s.pendingSpan a = false := by
  simp [State.pendingSpan, hd, hi, inSpan]

theorem writeLength_inputs (i : Instr) (s : State) (ts : List Input) :
    writeLength i { s with inputs := ts } = writeLength i s := by
  cases i <;> rfl

end Sys2Proof.Machine
end

section
/-!
PROOFS. The statements about model faults, the BUSY hazard and reset.
-/

namespace Sys2Proof.Machine

/-- Settles O47: whatever the cause, the first reason stays. -/
theorem faultIsSticky : Obligations.FaultIsSticky := by
  intro s t r hs h
  obtain hf | ⟨_, -, hf⟩ := step_fault h
  · exact hf.trans hs
  · rw [hf, hs]
    rfl

/-- Settles O48: with no fault before the step, the fault after it is its cause. -/
theorem faultsHaveTwoCausesOnly : Obligations.FaultsHaveTwoCausesOnly := by
  intro s t r hs h ht
  obtain hf | ⟨q, hc, hf⟩ := step_fault h
  · rw [hf, hs] at ht
    cases ht
  · rw [hf, hs] at ht
    cases ht
    cases hc with
    | hostWrite hb hi hw => exact ⟨hb, .inl ⟨rfl, _, _, hi, hw⟩⟩
    | unwrittenRead hb he hi hr => exact ⟨hb, .inr ⟨rfl, he, _, hi, hr⟩⟩

/-- Settles O49: the step is the command's meaning, which completes and notes the bytes it read. -/
theorem unwrittenReadFaultsAndCompletes : Obligations.UnwrittenReadFaultsAndCompletes := by
  intro s i he hb hd hf hi hr
  obtain ⟨t, ht⟩ := exec_answers i { s with inputs := s.inputs.tail }
  have hturn := engineTurn_command (s := { s with inputs := s.inputs.tail }) hb hd hi
  refine ⟨t, (step_engine he).trans (hturn.trans ht), ?_, (exec_showsCompletion ht).codes.imp And.left And.left⟩
  rw [exec_fault_unwritten ht (mt (State.readsWritten_inputs i s _).1 hr)]
  exact congrArg (firstFault · .readUnwritten) hf

/-- Settles O50: a host write of either kind disturbs the pending command. -/
theorem busyHostWriteFaults : Obligations.BusyHostWriteFaults := by
  intro s x ts hb hi hw
  cases x with
  | engine | reset | powerOn => cases hw
  | host a =>
    obtain ⟨hstatus, hinputs, hdist, hfault⟩ := State.disturbs_hostAct (s := { s with inputs := ts }) hb hw
    refine ⟨_, step_turn hi, hstatus, hinputs, hdist, hfault.trans ?_⟩
    show firstFault s.fault _ = _
    cases s.fault <;> rfl

/-- Settles O51: a read of STATUS is exact, and every other read is a draw. -/
theorem busyHostReads : Obligations.BusyHostReads := by
  intro s ts hb
  refine ⟨fun hi => step_rdStatus hi, fun n r hi hr hn => ?_, fun a hi => ?_, fun n hi hn => ?_⟩
  · exact ⟨_, s.busyRegValue_lt hr, step_regRead_busy hb hn hi⟩
  · exact ⟨_, step_bufRead_busy hb hi⟩
  · exact ⟨_, step_regRead_busy hb (by rintro rfl; exact absurd hn (by decide)) hi⟩

/-- Settles O56: either reset clears the registers, whatever the abandoned command leaves in BUF. -/
theorem resetClearsEveryRegister : Obligations.ResetClearsEveryRegister := by
  intro s x ts hx hi
  obtain ⟨u, hu, hf⟩ := takeTurn_reset { s with inputs := ts } hx
  exact ⟨_, (step_turn hi).trans hu, u.regValue_clearRegs, u.busy_clearRegs, hf⟩

/-- Settles O57: an address is in the abandoned range or it is not. -/
theorem resetKeepsBufButAbandonedRange : Obligations.ResetKeepsBufButAbandonedRange := by
  intro s ts
  refine ⟨fun hi => ⟨_, step_turn hi, fun hb => State.bytes_resetInput_idle hb, fun hb hd i hc => ?_,
    fun hb hd r hc a => State.bytes_resetInput_outside hb (State.inSpan_pendingSpan_rejected hd hc a)⟩,
    fun hi => ⟨_, step_turn hi, fun _ => rfl⟩⟩
  have hspan := State.inSpan_pendingSpan (s := { s with inputs := ts }) hd hc
  rw [writeLength_inputs] at hspan
  refine ⟨fun a hlo hhi hin => State.written_resetInput_inside hb ((hspan a).2 ⟨hin, hlo, hhi⟩), fun a ha => ?_⟩
  refine State.bytes_resetInput_outside hb (Bool.eq_false_iff.2 fun h => ?_)
  obtain ⟨hin, hlo, hhi⟩ : s.addr.toNat + writeLength i s ≤ 65540 ∧ s.addr.toNat ≤ a ∧
    a < s.addr.toNat + writeLength i s := (hspan a).1 h
  omega

end Sys2Proof.Machine
end
